-- ==== Sys2Proof/Word.lean ====
section
/-! DEFINITION. The word types of the CORE: the byte of the streams and memories, the 32-bit host register word
(spec 00_scope R7, 10_state R30). -/

namespace Sys2Proof

/-- A byte: 8 bits, bit 0 least significant (R7). -/
abbrev Byte := BitVec 8

/-- A host register word: every host register is 32 bits wide (R30). -/
abbrev Word32 := BitVec 32

end Sys2Proof
end

