-- ==== Sys2Proof/Config.lean ====
section
/-! DEFINITION. What an implementation of the CORE fixes: the two OPEN parameters of spec 00_scope R5, R6 and
93_implementation_defined section 3. They are "parameters of the step relation" (10_state R21), so no rule may
depend on their values; the machine state carries them unchanged (log 1). -/

namespace Sys2Proof

/-- The OPEN parameters (R5): `WBITS`, legal 9..15, and `EFFORT_TABLE[0..9]`. -/
structure Params where
  /-- `WBITS`: the window holds `2 ^ WBITS` bytes. -/
  wbits : Nat
  /-- `EFFORT_TABLE`: one entry per legal level. -/
  effortTable : List Nat
  deriving DecidableEq, Repr

/-- The default parameters (R5), "what every derived test vector uses". -/
def Params.default : Params :=
  { wbits := 15, effortTable := [0, 4, 8, 16, 32, 64, 128, 256, 1024, 4096] }

/-- The constraints of R5 and R6: `9 ≤ WBITS ≤ 15`; one table entry per level; entries non-decreasing. -/
abbrev Params.Legal (p : Params) : Prop :=
  9 ≤ p.wbits ∧ p.wbits ≤ 15 ∧ p.effortTable.length = 10 ∧ p.effortTable.Pairwise (· ≤ ·)

end Sys2Proof
end

