-- ==== Sys2Proof/Machine/Tables.lean ====
section
/-! DEFINITION. The constant tables of the format and the fixed numbers of the block (spec 00_scope R5,
30_encoding R87, R88, R91, R93 to R95). They are ROM constants, not state (10_state R21). -/

namespace Sys2Proof.Machine

/-- `WSIZE = 2 ^ WBITS` (R5). -/
def wsize (p : Params) : Nat := 2 ^ p.wbits

/-- `MIN_MATCH` (R5). -/
def minMatch : Nat := 3

/-- `MAX_MATCH` (R5). -/
def maxMatch : Nat := 258

/-- `MAX_CODE_LEN` (R5). -/
def maxCodeLen : Nat := 15

/-- `MAX_CL_CODE_LEN` (R5). -/
def maxClCodeLen : Nat := 7

/-- `N_LITLEN` (R5). -/
def nLitLen : Nat := 286

/-- `N_DIST` (R5). -/
def nDist : Nat := 30

/-- `N_CL` (R5). -/
def nCl : Nat := 19

/-- `LOOKAHEAD_MIN` (R5, R160). -/
def lookaheadMin : Nat := 260

/-- `LEVEL_MAX` (R5, R293). -/
def levelMax : Nat := 9

/-- `ADLER_BASE` (R5, R280). -/
def adlerBase : Nat := 65521

/-- `LEN_BASE[0..28]` (R91). -/
def lenBase : List Nat :=
  [3, 4, 5, 6, 7, 8, 9, 10, 11, 13, 15, 17, 19, 23, 27, 31, 35, 43, 51, 59, 67, 83, 99, 115, 131, 163, 195, 227, 258]

/-- `LEN_EXTRA[0..28]` (R91). -/
def lenExtra : List Nat :=
  [0, 0, 0, 0, 0, 0, 0, 0, 1, 1, 1, 1, 2, 2, 2, 2, 3, 3, 3, 3, 4, 4, 4, 4, 5, 5, 5, 5, 0]

/-- `DIST_BASE[0..29]` (R93). -/
def distBase : List Nat :=
  [1, 2, 3, 4, 5, 7, 9, 13, 17, 25, 33, 49, 65, 97, 129, 193, 257, 385, 513, 769,
   1025, 1537, 2049, 3073, 4097, 6145, 8193, 12289, 16385, 24577]

/-- `DIST_EXTRA[0..29]` (R93). -/
def distExtra : List Nat :=
  [0, 0, 0, 0, 1, 1, 2, 2, 3, 3, 4, 4, 5, 5, 6, 6, 7, 7, 8, 8, 9, 9, 10, 10, 11, 11, 12, 12, 13, 13]

/-- `CL_ORDER[0..18]`, the "fixed permuted order" (R87). -/
def clOrder : List Nat := [16, 17, 18, 0, 8, 7, 9, 6, 10, 5, 11, 4, 12, 3, 13, 2, 14, 1, 15]

/-- Extra bits of a code-length symbol (R88). -/
def clExtra (sym : Nat) : Nat :=
  if sym = 16 then 2 else if sym = 17 then 3 else if sym = 18 then 7 else 0

/-- The 288 code lengths of the fixed literal/length code (R94). -/
def fixedLitLens : List Nat :=
  List.replicate 144 8 ++ List.replicate 112 9 ++ List.replicate 24 7 ++ List.replicate 8 8

/-- The 32 code lengths of the fixed distance code (R95). -/
def fixedDistLens : List Nat := List.replicate 32 5

/-- The largest index `i` of an ascending table with `table[i] ≤ v` (the encoder direction of R96). -/
def lastIndexLE (table : List Nat) (v : Nat) : Nat := table.countP (· ≤ v) - 1

/-- The length symbol index `i` of a match length (R96). -/
def lenIndex (length : Nat) : Nat := lastIndexLE lenBase length

/-- The distance symbol index `j` of a match distance (R96). -/
def distIndex (distance : Nat) : Nat := lastIndexLE distBase distance

end Sys2Proof.Machine
end

