-- ==== Sys2Proof/Machine/Huffman.lean ====
section
/-! DEFINITION. Bit fields and the Huffman Coder: pure functions (spec 20_memory R61, 43_huffman R170 to R187,
40_bitio R126). None of them reads or writes a register. -/

namespace Sys2Proof.Machine

/-! ## Bit fields (R61) -/

/-- The `n` low bits of `v`, least significant first: how a field travels in the stream. -/
def bitsLSB (v n : Nat) : List Bool := (List.range n).map v.testBit

/-- The `l` low bits of `c`, most significant first: how a Huffman code travels in the stream. -/
def bitsMSB (c l : Nat) : List Bool := (bitsLSB c l).reverse

/-- The number whose bits, least significant first, are the list. -/
def ofBitsLSB : List Bool → Nat
  | [] => 0
  | b :: bs => b.toNat + 2 * ofBitsLSB bs

/-- A byte as stream bits (R8): bit 0 first. -/
def byteBits (b : Byte) : List Bool := bitsLSB b.toNat 8

/-- A byte sequence as stream bits (R8, R123). -/
def bytesBits (bs : List Byte) : List Bool := bs.flatMap byteBits

/-! ## Decode tables (R185, R186) -/

/-- A decode table `T = (count[1..15], sorted[], maxlen)` (R126, R185); `count` lists `count[1]` to `count[15]`. -/
structure DecodeTable where
  count : List Nat
  sorted : List Nat
  maxlen : Nat
  deriving DecidableEq, Repr

/-- The empty table: no code, `maxlen = 0` (R351). -/
def emptyTable : DecodeTable := { count := List.replicate 15 0, sorted := [], maxlen := 0 }

/-- The number of symbols with code length `l`. -/
def lenCount (lens : List Nat) (l : Nat) : Nat := lens.countP (· == l)

/-- `count[1..maxLength]` of a list of code lengths. -/
def lenCounts (maxLength : Nat) (lens : List Nat) : List Nat :=
  (List.range maxLength).map fun k => lenCount lens (k + 1)

/-- The symbols of code length `l`, ascending. -/
def symbolsOfLen (lens : List Nat) (l : Nat) : List Nat :=
  (lens.zipIdx.filter fun e => e.1 == l).map (·.2)

/-- The coded symbols sorted by (length, symbol) ascending (R185). -/
def sortedSymbols (lens : List Nat) : List Nat :=
  (List.range 15).flatMap fun k => symbolsOfLen lens (k + 1)

/-- The largest code length in use, 0 if none: `counts` lists the counts of lengths `l`, `l + 1`, ... -/
def maxUsedLen : Nat → List Nat → Nat
  | _, [] => 0
  | l, c :: cs => let m := maxUsedLen (l + 1) cs; if m = 0 then (if c = 0 then 0 else l) else m

/-- `Σ count[l] · 2 ^ (m − l)` over the lengths `l = 1 .. m` of the list: the Kraft sum in units of `2 ^ (−m)`. -/
def kraft (counts : List Nat) : Nat :=
  match counts with
  | [] => 0
  | c :: cs => c * 2 ^ cs.length + kraft cs

/-- Over-subscription (R186): `Σ count[l] · 2 ^ (15 − l) > 2 ^ 15`. -/
def overSubscribed (lens : List Nat) : Bool := decide (2 ^ 15 < kraft (lenCounts 15 lens))

/-- The decode table of a list of code lengths, without the check (R185). -/
def rawTable (lens : List Nat) : DecodeTable :=
  { count := lenCounts 15 lens
    sorted := sortedSymbols lens
    maxlen := maxUsedLen 1 (lenCounts 15 lens) }

/-- `buildDecodeTable` (R185): `none` where the set is over-subscribed (R186); incomplete sets are accepted (R187). -/
def buildDecodeTable (lens : List Nat) : Option DecodeTable :=
  if overSubscribed lens then none else some (rawTable lens)

/-- The fixed literal/length decode table (R177, R261). -/
def fixedLT : DecodeTable := rawTable fixedLitLens

/-- The fixed distance decode table (R177, R261). -/
def fixedDT : DecodeTable := rawTable fixedDistLens

/-! ## DecodeSym (R126) -/

/-- What `DecodeSym` finds in the available bits. -/
inductive SymRead where
  /-- A symbol, and how many bits its code took. -/
  | sym (y n : Nat)
  /-- `maxlen` bits were read and form no assigned code. -/
  | unassigned
  /-- The bits ran out first. -/
  | hold
  deriving DecidableEq, Repr

/-- The loop of `DecodeSym` (R126) over the counts of the lengths still to try; `code` is already shifted, so its
bit 0 is free for the next stream bit. -/
def decodeSymLoop (sorted : List Nat) : (counts : List Nat) → (code first index n : Nat) → List Bool → SymRead
  | [], _, _, _, _, _ => .unassigned
  | _ :: _, _, _, _, _, [] => .hold
  | c :: cs, code, first, index, n, b :: bs =>
    if code + b.toNat < first + c then
      match sorted[index + (code + b.toNat - first)]? with
      | some y => .sym y (n + 1)
      | none => .unassigned
    else decodeSymLoop sorted cs ((code + b.toNat) * 2) ((first + c) * 2) (index + c) (n + 1) bs

/-- `DecodeSym(T)` on the unread bits (R126). -/
def decodeSym (T : DecodeTable) (bits : List Bool) : SymRead :=
  decodeSymLoop T.sorted (T.count.take T.maxlen) 0 0 0 0 bits

/-! ## Canonical codes (R175) -/

/-- `next_code[1..]` before any symbol is coded: `c` and `below` are the code and the count of the length before. -/
def firstCodes : (c below : Nat) → List Nat → List Nat
  | _, _, [] => []
  | c, below, n :: ns => let c' := (c + below) * 2; c' :: firstCodes c' n ns

/-- The code of each symbol in increasing order, `next` holding `next_code[1..]`; 0 for a symbol with no code. -/
def codesInOrder : List Nat → (next : List Nat) → List Nat
  | [], _ => []
  | l :: ls, next =>
    if l = 0 then 0 :: codesInOrder ls next
    else next.getD (l - 1) 0 :: codesInOrder ls (next.modify (l - 1) (· + 1))

/-- `assignCanonicalCodes` (R175). -/
def assignCanonicalCodes (lens : List Nat) : List Nat :=
  codesInOrder lens (firstCodes 0 0 (lenCounts 15 lens))

/-! ## buildLengths (R171 to R174) -/

/-- A node of the Huffman tree under construction: leaves are symbols. -/
inductive HuffTree where
  | leaf (sym : Nat)
  | node (a b : HuffTree)
  deriving DecidableEq, Repr

/-- A live node with its key `(weight, order)` (R172). -/
structure LiveNode where
  weight : Nat
  order : Nat
  tree : HuffTree
  deriving DecidableEq, Repr

/-- Lexicographic comparison of keys (R172). -/
def keyLT (x y : LiveNode) : Bool :=
  decide (x.weight < y.weight) || (decide (x.weight = y.weight) && decide (x.order < y.order))

/-- Adds a node to the live nodes, kept in ascending key order. -/
def insertLive (x : LiveNode) : List LiveNode → List LiveNode
  | [] => [x]
  | y :: ys => if keyLT x y then x :: y :: ys else y :: insertLive x ys

/-- The leaves of the used symbols, in ascending key order. -/
def leaves (freq : List Nat) : List LiveNode :=
  (freq.zipIdx.filter fun e => e.1 != 0).foldr (fun e l => insertLive ⟨e.1, e.2, .leaf e.2⟩ l) []

/-- The merging loop (R172): takes the two least nodes `a` and `b`; the `k`-th internal node has order `n + k`. The
first argument bounds the number of merges. -/
def mergeLive (n : Nat) : (fuel k : Nat) → List LiveNode → List LiveNode
  | fuel + 1, k, a :: b :: rest =>
    mergeLive n fuel (k + 1) (insertLive ⟨a.weight + b.weight, n + k, .node a.tree b.tree⟩ rest)
  | _, _, l => l

/-- The (symbol, depth) pairs of a tree's leaves (R173). -/
def leafDepths : (depth : Nat) → HuffTree → List (Nat × Nat)
  | d, .leaf y => [(y, d)]
  | d, .node a b => leafDepths (d + 1) a ++ leafDepths (d + 1) b

/-- The depths before limiting: used symbols with their depth in the tree (R172, R173). -/
def treeDepths (freq : List Nat) : List (Nat × Nat) :=
  let l := leaves freq
  match mergeLive freq.length l.length 0 l with
  | [] => []
  | root :: _ => leafDepths 0 root.tree

/-- One pass of the limiting loop (R174) on `cnt[1..M]`: the deepest leaf above depth `M` becomes an internal node
with two children, one of them taken from depth `M`. -/
def limitPass (M : Nat) (cnt : List Nat) : List Nat :=
  let l := maxUsedLen 1 (cnt.take (M - 1))
  ((cnt.modify (l - 1) (· - 1)).modify l (· + 2)).modify (M - 1) (· - 1)

/-- The limiting loop (R174): each pass lowers the Kraft sum by 1, so the excess over `2 ^ M` counts the passes. -/
def limitLoop (M : Nat) : (excess : Nat) → List Nat → List Nat
  | 0, cnt => cnt
  | k + 1, cnt => limitLoop M k (limitPass M cnt)

/-- Inserts a (frequency, symbol) pair into a list in order of (frequency descending, symbol ascending). -/
def insertByFreq (x : Nat × Nat) : List (Nat × Nat) → List (Nat × Nat)
  | [] => [x]
  | y :: ys => if y.1 < x.1 ∨ (y.1 = x.1 ∧ x.2 < y.2) then x :: y :: ys else y :: insertByFreq x ys

/-- The used symbols in order of (frequency descending, symbol ascending) (R174). -/
def symbolsByFreq (freq : List Nat) : List Nat :=
  ((freq.zipIdx.filter fun e => e.1 != 0).foldr insertByFreq []).map (·.2)

/-- `cnt[1]` times 1, then `cnt[2]` times 2, and so on (R174). -/
def spreadLens : (l : Nat) → List Nat → List Nat
  | _, [] => []
  | l, c :: cs => List.replicate c l ++ spreadLens (l + 1) cs

/-- Length limiting (R174): the (symbol, length) pairs for maximum length `M`. -/
def limitLengths (freq : List Nat) (M : Nat) (depths : List (Nat × Nat)) : List (Nat × Nat) :=
  let cnt := lenCounts M (depths.map fun e => min e.2 M)
  (symbolsByFreq freq).zip (spreadLens 1 (limitLoop M (kraft cnt - 2 ^ M) cnt))

/-- The lengths of all symbols from the (symbol, length) pairs of the used ones. -/
def lensOfPairs (n : Nat) (pairs : List (Nat × Nat)) : List Nat :=
  (List.range n).map fun y => (pairs.lookup y).getD 0

/-- `buildLengths(freq, maxLength)` (R171). -/
def buildLengths (freq : List Nat) (maxLength : Nat) : List Nat :=
  let used := freq.countP (· != 0)
  if used = 0 then freq.map fun _ => 0
  else if used = 1 then freq.map fun f => if f = 0 then 0 else 1
  else
    let depths := treeDepths freq
    if depths.all fun e => e.2 ≤ maxLength then lensOfPairs freq.length depths
    else lensOfPairs freq.length (limitLengths freq maxLength depths)

end Sys2Proof.Machine
end

