-- ==== Sys2Proof/Syntax.lean ====
section
/-! DEFINITION. The instructions: one constructor for each of the 88 rows of spec/opcode_table.json, over the five
formats of spec 30_encoding R100 (host commands, block headers, literal/length, distance and code-length symbols),
with their operands in the notation of R99. -/

namespace Sys2Proof

/-- An instruction of the CORE: a host command (R81) or an element of the DEFLATE stream (R82 to R93). -/
inductive Instr where
  /-- `RESET` (R292). -/
  | reset
  /-- `CINIT` (R293). -/
  | cinit
  /-- `DINIT` (R294). -/
  | dinit
  /-- `FEED` (R295) with the byte chunk conveyed on the input port. -/
  | feed (chunk : List Byte)
  /-- `FLUSH` (R296). -/
  | flush
  /-- `FINISH` (R297). -/
  | finish
  /-- Reserved command code 0x00 (R298). -/
  | cmdReserved00
  /-- Reserved command code 0x07 (R298). -/
  | cmdReserved07
  /-- Reserved command codes 0x08..0x0F (R298). -/
  | cmdReserved080F (code : Byte)
  /-- Reserved command codes 0x10..0x1F (R298). -/
  | cmdReserved101F (code : Byte)
  /-- Reserved command codes 0x20..0x3F (R298). -/
  | cmdReserved203F (code : Byte)
  /-- Reserved command codes 0x40..0x7F (R298). -/
  | cmdReserved407F (code : Byte)
  /-- Reserved command codes 0x80..0xFF (R298). -/
  | cmdReserved80FF (code : Byte)
  /-- Block header of `BTYPE` 0 (R82, R233), with its final flag. -/
  | blockStored (final : Bool)
  /-- Block header of `BTYPE` 1 (R82, R261), with its final flag. -/
  | blockFixed (final : Bool)
  /-- Block header of `BTYPE` 2 (R82, R240), with its final flag. -/
  | blockDynamic (final : Bool)
  /-- Block header of `BTYPE` 3, reserved (R82, R231), with its final flag. -/
  | blockReserved (final : Bool)
  /-- `LIT`: literal symbols 0..127 (R255). -/
  | lit000_127 (byte : Byte)
  /-- `LIT`: literal symbols 128..143 (R255). -/
  | lit128_143 (byte : Byte)
  /-- `LIT`: literal symbols 144..159 (R255). -/
  | lit144_159 (byte : Byte)
  /-- `LIT`: literal symbols 160..191 (R255). -/
  | lit160_191 (byte : Byte)
  /-- `LIT`: literal symbols 192..255 (R255). -/
  | lit192_255 (byte : Byte)
  /-- `EOB`: the end-of-block symbol 256 (R259). -/
  | eob
  /-- Length symbol 257 with its extra field (R91, R258). -/
  | len257 (extra : BitVec 5)
  /-- Length symbol 258 with its extra field (R91, R258). -/
  | len258 (extra : BitVec 5)
  /-- Length symbol 259 with its extra field (R91, R258). -/
  | len259 (extra : BitVec 5)
  /-- Length symbol 260 with its extra field (R91, R258). -/
  | len260 (extra : BitVec 5)
  /-- Length symbol 261 with its extra field (R91, R258). -/
  | len261 (extra : BitVec 5)
  /-- Length symbol 262 with its extra field (R91, R258). -/
  | len262 (extra : BitVec 5)
  /-- Length symbol 263 with its extra field (R91, R258). -/
  | len263 (extra : BitVec 5)
  /-- Length symbol 264 with its extra field (R91, R258). -/
  | len264 (extra : BitVec 5)
  /-- Length symbol 265 with its extra field (R91, R258). -/
  | len265 (extra : BitVec 5)
  /-- Length symbol 266 with its extra field (R91, R258). -/
  | len266 (extra : BitVec 5)
  /-- Length symbol 267 with its extra field (R91, R258). -/
  | len267 (extra : BitVec 5)
  /-- Length symbol 268 with its extra field (R91, R258). -/
  | len268 (extra : BitVec 5)
  /-- Length symbol 269 with its extra field (R91, R258). -/
  | len269 (extra : BitVec 5)
  /-- Length symbol 270 with its extra field (R91, R258). -/
  | len270 (extra : BitVec 5)
  /-- Length symbol 271 with its extra field (R91, R258). -/
  | len271 (extra : BitVec 5)
  /-- Length symbol 272 with its extra field (R91, R258). -/
  | len272 (extra : BitVec 5)
  /-- Length symbol 273 with its extra field (R91, R258). -/
  | len273 (extra : BitVec 5)
  /-- Length symbol 274 with its extra field (R91, R258). -/
  | len274 (extra : BitVec 5)
  /-- Length symbol 275 with its extra field (R91, R258). -/
  | len275 (extra : BitVec 5)
  /-- Length symbol 276 with its extra field (R91, R258). -/
  | len276 (extra : BitVec 5)
  /-- Length symbol 277 with its extra field (R91, R258). -/
  | len277 (extra : BitVec 5)
  /-- Length symbol 278 with its extra field (R91, R258). -/
  | len278 (extra : BitVec 5)
  /-- Length symbol 279 with its extra field (R91, R258). -/
  | len279 (extra : BitVec 5)
  /-- Length symbol 280 with its extra field (R91, R258). -/
  | len280 (extra : BitVec 5)
  /-- Length symbol 281 with its extra field (R91, R258). -/
  | len281 (extra : BitVec 5)
  /-- Length symbol 282 with its extra field (R91, R258). -/
  | len282 (extra : BitVec 5)
  /-- Length symbol 283 with its extra field (R91, R258). -/
  | len283 (extra : BitVec 5)
  /-- Length symbol 284 with its extra field (R91, R258). -/
  | len284 (extra : BitVec 5)
  /-- Length symbol 285 with its extra field (R91, R258). -/
  | len285 (extra : BitVec 5)
  /-- Literal/length code points 286 and 287 (R256); the operand is the low bit of the code point. -/
  | litlenInvalid286_287 (low : BitVec 1)
  /-- Distance symbol 0 with its extra field (R93, R258). -/
  | dist0 (extra : BitVec 13)
  /-- Distance symbol 1 with its extra field (R93, R258). -/
  | dist1 (extra : BitVec 13)
  /-- Distance symbol 2 with its extra field (R93, R258). -/
  | dist2 (extra : BitVec 13)
  /-- Distance symbol 3 with its extra field (R93, R258). -/
  | dist3 (extra : BitVec 13)
  /-- Distance symbol 4 with its extra field (R93, R258). -/
  | dist4 (extra : BitVec 13)
  /-- Distance symbol 5 with its extra field (R93, R258). -/
  | dist5 (extra : BitVec 13)
  /-- Distance symbol 6 with its extra field (R93, R258). -/
  | dist6 (extra : BitVec 13)
  /-- Distance symbol 7 with its extra field (R93, R258). -/
  | dist7 (extra : BitVec 13)
  /-- Distance symbol 8 with its extra field (R93, R258). -/
  | dist8 (extra : BitVec 13)
  /-- Distance symbol 9 with its extra field (R93, R258). -/
  | dist9 (extra : BitVec 13)
  /-- Distance symbol 10 with its extra field (R93, R258). -/
  | dist10 (extra : BitVec 13)
  /-- Distance symbol 11 with its extra field (R93, R258). -/
  | dist11 (extra : BitVec 13)
  /-- Distance symbol 12 with its extra field (R93, R258). -/
  | dist12 (extra : BitVec 13)
  /-- Distance symbol 13 with its extra field (R93, R258). -/
  | dist13 (extra : BitVec 13)
  /-- Distance symbol 14 with its extra field (R93, R258). -/
  | dist14 (extra : BitVec 13)
  /-- Distance symbol 15 with its extra field (R93, R258). -/
  | dist15 (extra : BitVec 13)
  /-- Distance symbol 16 with its extra field (R93, R258). -/
  | dist16 (extra : BitVec 13)
  /-- Distance symbol 17 with its extra field (R93, R258). -/
  | dist17 (extra : BitVec 13)
  /-- Distance symbol 18 with its extra field (R93, R258). -/
  | dist18 (extra : BitVec 13)
  /-- Distance symbol 19 with its extra field (R93, R258). -/
  | dist19 (extra : BitVec 13)
  /-- Distance symbol 20 with its extra field (R93, R258). -/
  | dist20 (extra : BitVec 13)
  /-- Distance symbol 21 with its extra field (R93, R258). -/
  | dist21 (extra : BitVec 13)
  /-- Distance symbol 22 with its extra field (R93, R258). -/
  | dist22 (extra : BitVec 13)
  /-- Distance symbol 23 with its extra field (R93, R258). -/
  | dist23 (extra : BitVec 13)
  /-- Distance symbol 24 with its extra field (R93, R258). -/
  | dist24 (extra : BitVec 13)
  /-- Distance symbol 25 with its extra field (R93, R258). -/
  | dist25 (extra : BitVec 13)
  /-- Distance symbol 26 with its extra field (R93, R258). -/
  | dist26 (extra : BitVec 13)
  /-- Distance symbol 27 with its extra field (R93, R258). -/
  | dist27 (extra : BitVec 13)
  /-- Distance symbol 28 with its extra field (R93, R258). -/
  | dist28 (extra : BitVec 13)
  /-- Distance symbol 29 with its extra field (R93, R258). -/
  | dist29 (extra : BitVec 13)
  /-- Distance code points 30 and 31 (R257); the operand is the low bit of the code point. -/
  | distInvalid30_31 (low : BitVec 1)
  /-- `CL`: code-length symbols 0..15, the length itself (R88, R246). -/
  | cl (len : BitVec 4)
  /-- `REP16`: repeat the previous length (R88, R246), with its 2 extra bits. -/
  | rep16 (extra : BitVec 2)
  /-- `REPZ17`: a run of zero lengths (R88, R246), with its 3 extra bits. -/
  | repz17 (extra : BitVec 3)
  /-- `REPZ18`: a long run of zero lengths (R88, R246), with its 7 extra bits. -/
  | repz18 (extra : BitVec 7)
  deriving DecidableEq, Repr

end Sys2Proof
end

