-- ==== Sys2Proof/WellFormed.lean ====
section
/-! DEFINITION. Which instruction terms stand for an encoding: the operand of a ranged row lies in the row's range
(spec/opcode_table.json `match` and `mask`), and an extra field fits in the symbol's extra bits (30_encoding R91, R93). -/

namespace Sys2Proof

/-- `lo ≤ b ≤ hi` for a byte operand. -/
def byteIn (lo hi : Nat) (b : Byte) : Bool := decide (lo ≤ b.toNat) && decide (b.toNat ≤ hi)

/-- An extra field of a length symbol of index `i` fits in `LEN_EXTRA[i]` bits (R91). -/
def lenExtraFits (i : Nat) (x : BitVec 5) : Bool := decide (x.toNat < 2 ^ Machine.lenExtra.getD i 0)

/-- An extra field of distance symbol `j` fits in `DIST_EXTRA[j]` bits (R93). -/
def distExtraFits (j : Nat) (x : BitVec 13) : Bool := decide (x.toNat < 2 ^ Machine.distExtra.getD j 0)

/-- The instruction is one that an encoding can carry. -/
def Instr.wellFormed : Instr → Bool
  | .reset => true
  | .cinit => true
  | .dinit => true
  | .feed _ => true
  | .flush => true
  | .finish => true
  | .cmdReserved00 => true
  | .cmdReserved07 => true
  | .cmdReserved080F code => byteIn 8 15 code
  | .cmdReserved101F code => byteIn 16 31 code
  | .cmdReserved203F code => byteIn 32 63 code
  | .cmdReserved407F code => byteIn 64 127 code
  | .cmdReserved80FF code => byteIn 128 255 code
  | .blockStored _ => true
  | .blockFixed _ => true
  | .blockDynamic _ => true
  | .blockReserved _ => true
  | .lit000_127 byte => byteIn 0 127 byte
  | .lit128_143 byte => byteIn 128 143 byte
  | .lit144_159 byte => byteIn 144 159 byte
  | .lit160_191 byte => byteIn 160 191 byte
  | .lit192_255 byte => byteIn 192 255 byte
  | .eob => true
  | .len257 extra => lenExtraFits 0 extra
  | .len258 extra => lenExtraFits 1 extra
  | .len259 extra => lenExtraFits 2 extra
  | .len260 extra => lenExtraFits 3 extra
  | .len261 extra => lenExtraFits 4 extra
  | .len262 extra => lenExtraFits 5 extra
  | .len263 extra => lenExtraFits 6 extra
  | .len264 extra => lenExtraFits 7 extra
  | .len265 extra => lenExtraFits 8 extra
  | .len266 extra => lenExtraFits 9 extra
  | .len267 extra => lenExtraFits 10 extra
  | .len268 extra => lenExtraFits 11 extra
  | .len269 extra => lenExtraFits 12 extra
  | .len270 extra => lenExtraFits 13 extra
  | .len271 extra => lenExtraFits 14 extra
  | .len272 extra => lenExtraFits 15 extra
  | .len273 extra => lenExtraFits 16 extra
  | .len274 extra => lenExtraFits 17 extra
  | .len275 extra => lenExtraFits 18 extra
  | .len276 extra => lenExtraFits 19 extra
  | .len277 extra => lenExtraFits 20 extra
  | .len278 extra => lenExtraFits 21 extra
  | .len279 extra => lenExtraFits 22 extra
  | .len280 extra => lenExtraFits 23 extra
  | .len281 extra => lenExtraFits 24 extra
  | .len282 extra => lenExtraFits 25 extra
  | .len283 extra => lenExtraFits 26 extra
  | .len284 extra => lenExtraFits 27 extra
  | .len285 extra => lenExtraFits 28 extra
  | .litlenInvalid286_287 _ => true
  | .dist0 extra => distExtraFits 0 extra
  | .dist1 extra => distExtraFits 1 extra
  | .dist2 extra => distExtraFits 2 extra
  | .dist3 extra => distExtraFits 3 extra
  | .dist4 extra => distExtraFits 4 extra
  | .dist5 extra => distExtraFits 5 extra
  | .dist6 extra => distExtraFits 6 extra
  | .dist7 extra => distExtraFits 7 extra
  | .dist8 extra => distExtraFits 8 extra
  | .dist9 extra => distExtraFits 9 extra
  | .dist10 extra => distExtraFits 10 extra
  | .dist11 extra => distExtraFits 11 extra
  | .dist12 extra => distExtraFits 12 extra
  | .dist13 extra => distExtraFits 13 extra
  | .dist14 extra => distExtraFits 14 extra
  | .dist15 extra => distExtraFits 15 extra
  | .dist16 extra => distExtraFits 16 extra
  | .dist17 extra => distExtraFits 17 extra
  | .dist18 extra => distExtraFits 18 extra
  | .dist19 extra => distExtraFits 19 extra
  | .dist20 extra => distExtraFits 20 extra
  | .dist21 extra => distExtraFits 21 extra
  | .dist22 extra => distExtraFits 22 extra
  | .dist23 extra => distExtraFits 23 extra
  | .dist24 extra => distExtraFits 24 extra
  | .dist25 extra => distExtraFits 25 extra
  | .dist26 extra => distExtraFits 26 extra
  | .dist27 extra => distExtraFits 27 extra
  | .dist28 extra => distExtraFits 28 extra
  | .dist29 extra => distExtraFits 29 extra
  | .distInvalid30_31 _ => true
  | .cl _ => true
  | .rep16 _ => true
  | .repz17 _ => true
  | .repz18 _ => true

end Sys2Proof
end

