-- ==== Sys2Proof/Decode.lean ====
section
/-! DEFINITION. Decoding and encoding (spec 30_encoding). An encoded instruction is a code of one of the five
formats of R100 together with its operand field: the extra bits of a symbol (R88, R91, R93) or the chunk of a FEED
(R81). Which format applies is decided by the context the decoder is in (R98), so it is part of the encoded form. -/

namespace Sys2Proof

/-- The five formats of the opcode table (R100). -/
inductive Format where
  /-- Bits [7:0] of the word written to `CMD`. -/
  | cmd
  /-- `H = GetBits(3)`. -/
  | blockHdr
  /-- The symbol returned by `DecodeSym(LT)`. -/
  | litlenSym
  /-- The symbol returned by `DecodeSym(DT)`. -/
  | distSym
  /-- The symbol returned by `DecodeSym(CLT)`. -/
  | clSym
  deriving DecidableEq, Repr

/-- How many bits `match` and `mask` of a format apply to (R100). -/
def Format.width : Format → Nat
  | .cmd => 8
  | .blockHdr => 3
  | .litlenSym => 9
  | .distSym => 5
  | .clSym => 5

/-- An encoded instruction: its format, its code in that format, its extra field and its chunk. -/
structure Encoded where
  format : Format
  code : Nat
  extra : Nat := 0
  chunk : List Byte := []
  deriving DecidableEq, Repr

/-- Why a code is no instruction. -/
inductive Reject where
  /-- The format has no such code (R100: `LITLEN_SYM` 288..511, `CL_SYM` 19..31, or more bits than the format has). -/
  | noSuchCode (f : Format) (code : Nat)
  /-- The extra field is wider than the symbol's extra bits. -/
  | extraTooWide (f : Format) (code extra : Nat)
  deriving DecidableEq, Repr

/-- The length-symbol rows in order: entry `i` is symbol `257 + i` (R91). -/
def lenRows : List (BitVec 5 → Instr) :=
  [.len257, .len258, .len259, .len260, .len261, .len262,
   .len263, .len264, .len265, .len266, .len267, .len268,
   .len269, .len270, .len271, .len272, .len273, .len274,
   .len275, .len276, .len277, .len278, .len279, .len280,
   .len281, .len282, .len283, .len284, .len285]

/-- The distance-symbol rows in order: entry `j` is symbol `j` (R93). -/
def distRows : List (BitVec 13 → Instr) :=
  [.dist0, .dist1, .dist2, .dist3, .dist4, .dist5,
   .dist6, .dist7, .dist8, .dist9, .dist10, .dist11,
   .dist12, .dist13, .dist14, .dist15, .dist16, .dist17,
   .dist18, .dist19, .dist20, .dist21, .dist22, .dist23,
   .dist24, .dist25, .dist26, .dist27, .dist28, .dist29]

/-- A command code (R81, R298). `chunk` is what the input port conveys; only FEED takes it. -/
def decodeCmd (code : Nat) (chunk : List Byte) : Except Reject Instr :=
  if code = 0x00 then .ok .cmdReserved00
  else if code = 0x01 then .ok .reset
  else if code = 0x02 then .ok .cinit
  else if code = 0x03 then .ok .dinit
  else if code = 0x04 then .ok (.feed chunk)
  else if code = 0x05 then .ok .flush
  else if code = 0x06 then .ok .finish
  else if code = 0x07 then .ok .cmdReserved07
  else if code ≤ 0x0F then .ok (.cmdReserved080F (.ofNat 8 code))
  else if code ≤ 0x1F then .ok (.cmdReserved101F (.ofNat 8 code))
  else if code ≤ 0x3F then .ok (.cmdReserved203F (.ofNat 8 code))
  else if code ≤ 0x7F then .ok (.cmdReserved407F (.ofNat 8 code))
  else if code ≤ 0xFF then .ok (.cmdReserved80FF (.ofNat 8 code))
  else .error (.noSuchCode .cmd code)

/-- A block header `H` (R82): `BFINAL = H[0]`, `BTYPE = H[2:1]`. -/
def decodeHdr (h : Nat) : Except Reject Instr :=
  if h / 2 = 0 then .ok (.blockStored (h.testBit 0))
  else if h / 2 = 1 then .ok (.blockFixed (h.testBit 0))
  else if h / 2 = 2 then .ok (.blockDynamic (h.testBit 0))
  else if h / 2 = 3 then .ok (.blockReserved (h.testBit 0))
  else .error (.noSuchCode .blockHdr h)

/-- A literal/length symbol (R90, R91, R97) with its extra field. -/
def decodeLitLen (sym extra : Nat) : Except Reject Instr :=
  if sym ≤ 127 then .ok (.lit000_127 (.ofNat 8 sym))
  else if sym ≤ 143 then .ok (.lit128_143 (.ofNat 8 sym))
  else if sym ≤ 159 then .ok (.lit144_159 (.ofNat 8 sym))
  else if sym ≤ 191 then .ok (.lit160_191 (.ofNat 8 sym))
  else if sym ≤ 255 then .ok (.lit192_255 (.ofNat 8 sym))
  else if sym = 256 then .ok .eob
  else if sym = 286 ∨ sym = 287 then .ok (.litlenInvalid286_287 (.ofNat 1 sym))
  else match lenRows[sym - 257]? with
    | none => .error (.noSuchCode .litlenSym sym)
    | some row =>
      if extra < 2 ^ Machine.lenExtra.getD (sym - 257) 0 then .ok (row (.ofNat 5 extra))
      else .error (.extraTooWide .litlenSym sym extra)

/-- A distance symbol (R93, R97) with its extra field. -/
def decodeDist (sym extra : Nat) : Except Reject Instr :=
  if sym = 30 ∨ sym = 31 then .ok (.distInvalid30_31 (.ofNat 1 sym))
  else match distRows[sym]? with
    | none => .error (.noSuchCode .distSym sym)
    | some row =>
      if extra < 2 ^ Machine.distExtra.getD sym 0 then .ok (row (.ofNat 13 extra))
      else .error (.extraTooWide .distSym sym extra)

/-- A code-length symbol (R88) with its extra field. -/
def decodeCl (sym extra : Nat) : Except Reject Instr :=
  if sym ≤ 15 then .ok (.cl (.ofNat 4 sym))
  else if sym ≤ 18 then
    if extra < 2 ^ Machine.clExtra sym then
      if sym = 16 then .ok (.rep16 (.ofNat 2 extra))
      else if sym = 17 then .ok (.repz17 (.ofNat 3 extra))
      else .ok (.repz18 (.ofNat 7 extra))
    else .error (.extraTooWide .clSym sym extra)
  else .error (.noSuchCode .clSym sym)

/-- The decoder: total, and rejecting by name (R97, R100). -/
def decode (e : Encoded) : Except Reject Instr :=
  match e.format with
  | .cmd => decodeCmd e.code e.chunk
  | .blockHdr => decodeHdr e.code
  | .litlenSym => decodeLitLen e.code e.extra
  | .distSym => decodeDist e.code e.extra
  | .clSym => decodeCl e.code e.extra

/-- The header value of a block: `BFINAL + 2 · BTYPE` (R82). -/
def hdrCode (final : Bool) (btype : Nat) : Nat := final.toNat + 2 * btype

/-- The encoder, from the same tables of the spec (R81, R82, R88, R91, R93). -/
def encode : Instr → Encoded
  | .reset => ⟨.cmd, 0x01, 0, []⟩
  | .cinit => ⟨.cmd, 0x02, 0, []⟩
  | .dinit => ⟨.cmd, 0x03, 0, []⟩
  | .feed chunk => ⟨.cmd, 0x04, 0, chunk⟩
  | .flush => ⟨.cmd, 0x05, 0, []⟩
  | .finish => ⟨.cmd, 0x06, 0, []⟩
  | .cmdReserved00 => ⟨.cmd, 0x00, 0, []⟩
  | .cmdReserved07 => ⟨.cmd, 0x07, 0, []⟩
  | .cmdReserved080F code => ⟨.cmd, code.toNat, 0, []⟩
  | .cmdReserved101F code => ⟨.cmd, code.toNat, 0, []⟩
  | .cmdReserved203F code => ⟨.cmd, code.toNat, 0, []⟩
  | .cmdReserved407F code => ⟨.cmd, code.toNat, 0, []⟩
  | .cmdReserved80FF code => ⟨.cmd, code.toNat, 0, []⟩
  | .blockStored final => ⟨.blockHdr, hdrCode final 0, 0, []⟩
  | .blockFixed final => ⟨.blockHdr, hdrCode final 1, 0, []⟩
  | .blockDynamic final => ⟨.blockHdr, hdrCode final 2, 0, []⟩
  | .blockReserved final => ⟨.blockHdr, hdrCode final 3, 0, []⟩
  | .lit000_127 byte => ⟨.litlenSym, byte.toNat, 0, []⟩
  | .lit128_143 byte => ⟨.litlenSym, byte.toNat, 0, []⟩
  | .lit144_159 byte => ⟨.litlenSym, byte.toNat, 0, []⟩
  | .lit160_191 byte => ⟨.litlenSym, byte.toNat, 0, []⟩
  | .lit192_255 byte => ⟨.litlenSym, byte.toNat, 0, []⟩
  | .eob => ⟨.litlenSym, 256, 0, []⟩
  | .len257 extra => ⟨.litlenSym, 257, extra.toNat, []⟩
  | .len258 extra => ⟨.litlenSym, 258, extra.toNat, []⟩
  | .len259 extra => ⟨.litlenSym, 259, extra.toNat, []⟩
  | .len260 extra => ⟨.litlenSym, 260, extra.toNat, []⟩
  | .len261 extra => ⟨.litlenSym, 261, extra.toNat, []⟩
  | .len262 extra => ⟨.litlenSym, 262, extra.toNat, []⟩
  | .len263 extra => ⟨.litlenSym, 263, extra.toNat, []⟩
  | .len264 extra => ⟨.litlenSym, 264, extra.toNat, []⟩
  | .len265 extra => ⟨.litlenSym, 265, extra.toNat, []⟩
  | .len266 extra => ⟨.litlenSym, 266, extra.toNat, []⟩
  | .len267 extra => ⟨.litlenSym, 267, extra.toNat, []⟩
  | .len268 extra => ⟨.litlenSym, 268, extra.toNat, []⟩
  | .len269 extra => ⟨.litlenSym, 269, extra.toNat, []⟩
  | .len270 extra => ⟨.litlenSym, 270, extra.toNat, []⟩
  | .len271 extra => ⟨.litlenSym, 271, extra.toNat, []⟩
  | .len272 extra => ⟨.litlenSym, 272, extra.toNat, []⟩
  | .len273 extra => ⟨.litlenSym, 273, extra.toNat, []⟩
  | .len274 extra => ⟨.litlenSym, 274, extra.toNat, []⟩
  | .len275 extra => ⟨.litlenSym, 275, extra.toNat, []⟩
  | .len276 extra => ⟨.litlenSym, 276, extra.toNat, []⟩
  | .len277 extra => ⟨.litlenSym, 277, extra.toNat, []⟩
  | .len278 extra => ⟨.litlenSym, 278, extra.toNat, []⟩
  | .len279 extra => ⟨.litlenSym, 279, extra.toNat, []⟩
  | .len280 extra => ⟨.litlenSym, 280, extra.toNat, []⟩
  | .len281 extra => ⟨.litlenSym, 281, extra.toNat, []⟩
  | .len282 extra => ⟨.litlenSym, 282, extra.toNat, []⟩
  | .len283 extra => ⟨.litlenSym, 283, extra.toNat, []⟩
  | .len284 extra => ⟨.litlenSym, 284, extra.toNat, []⟩
  | .len285 extra => ⟨.litlenSym, 285, extra.toNat, []⟩
  | .litlenInvalid286_287 low => ⟨.litlenSym, 286 + low.toNat, 0, []⟩
  | .dist0 extra => ⟨.distSym, 0, extra.toNat, []⟩
  | .dist1 extra => ⟨.distSym, 1, extra.toNat, []⟩
  | .dist2 extra => ⟨.distSym, 2, extra.toNat, []⟩
  | .dist3 extra => ⟨.distSym, 3, extra.toNat, []⟩
  | .dist4 extra => ⟨.distSym, 4, extra.toNat, []⟩
  | .dist5 extra => ⟨.distSym, 5, extra.toNat, []⟩
  | .dist6 extra => ⟨.distSym, 6, extra.toNat, []⟩
  | .dist7 extra => ⟨.distSym, 7, extra.toNat, []⟩
  | .dist8 extra => ⟨.distSym, 8, extra.toNat, []⟩
  | .dist9 extra => ⟨.distSym, 9, extra.toNat, []⟩
  | .dist10 extra => ⟨.distSym, 10, extra.toNat, []⟩
  | .dist11 extra => ⟨.distSym, 11, extra.toNat, []⟩
  | .dist12 extra => ⟨.distSym, 12, extra.toNat, []⟩
  | .dist13 extra => ⟨.distSym, 13, extra.toNat, []⟩
  | .dist14 extra => ⟨.distSym, 14, extra.toNat, []⟩
  | .dist15 extra => ⟨.distSym, 15, extra.toNat, []⟩
  | .dist16 extra => ⟨.distSym, 16, extra.toNat, []⟩
  | .dist17 extra => ⟨.distSym, 17, extra.toNat, []⟩
  | .dist18 extra => ⟨.distSym, 18, extra.toNat, []⟩
  | .dist19 extra => ⟨.distSym, 19, extra.toNat, []⟩
  | .dist20 extra => ⟨.distSym, 20, extra.toNat, []⟩
  | .dist21 extra => ⟨.distSym, 21, extra.toNat, []⟩
  | .dist22 extra => ⟨.distSym, 22, extra.toNat, []⟩
  | .dist23 extra => ⟨.distSym, 23, extra.toNat, []⟩
  | .dist24 extra => ⟨.distSym, 24, extra.toNat, []⟩
  | .dist25 extra => ⟨.distSym, 25, extra.toNat, []⟩
  | .dist26 extra => ⟨.distSym, 26, extra.toNat, []⟩
  | .dist27 extra => ⟨.distSym, 27, extra.toNat, []⟩
  | .dist28 extra => ⟨.distSym, 28, extra.toNat, []⟩
  | .dist29 extra => ⟨.distSym, 29, extra.toNat, []⟩
  | .distInvalid30_31 low => ⟨.distSym, 30 + low.toNat, 0, []⟩
  | .cl len => ⟨.clSym, len.toNat, 0, []⟩
  | .rep16 extra => ⟨.clSym, 16, extra.toNat, []⟩
  | .repz17 extra => ⟨.clSym, 17, extra.toNat, []⟩
  | .repz18 extra => ⟨.clSym, 18, extra.toNat, []⟩

/-- How many extra bits follow a symbol of a format (R88, R91, R93); commands and headers have none. -/
def extraWidth (f : Format) (code : Nat) : Nat :=
  match f with
  | .cmd => 0
  | .blockHdr => 0
  | .litlenSym => if 257 ≤ code then Machine.lenExtra.getD (code - 257) 0 else 0
  | .distSym => Machine.distExtra.getD code 0
  | .clSym => Machine.clExtra code

/-- The stream bits of an element under a code-length list of its alphabet, first stream bit first: the code of the
symbol most significant bit first, then the extra field least significant bit first (R61, R85). -/
def symbolBits (lens : List Nat) (f : Format) (sym extra : Nat) : List Bool :=
  Machine.bitsMSB ((Machine.assignCanonicalCodes lens).getD sym 0) (lens.getD sym 0) ++
    Machine.bitsLSB extra (extraWidth f sym)

/-- The stream bits of an instruction that is a stream element: a header as its 3-bit field (R82), a symbol by
`symbolBits` under the lengths of its alphabet. A command has no stream bits. -/
def streamBits (llLens dlLens clLens : List Nat) (i : Instr) : List Bool :=
  let e := encode i
  match e.format with
  | .cmd => []
  | .blockHdr => Machine.bitsLSB e.code 3
  | .litlenSym => symbolBits llLens e.format e.code e.extra
  | .distSym => symbolBits dlLens e.format e.code e.extra
  | .clSym => symbolBits clLens e.format e.code e.extra

/-- The format the host's numbering of the opcode table gives a row of `nbits` bits (log 10). -/
def tableFormat (nbits : Nat) : Format :=
  if nbits ≤ 3 then .blockHdr
  else if nbits ≤ 5 then .distSym
  else if nbits ≤ 8 then .cmd
  else if nbits ≤ 16 then .litlenSym
  else .distSym

/-- The code that a word of the host's numbering holds: the low bits that the format's rows apply to (R100). -/
def tableCode (nbits w : Nat) : Nat := w % 2 ^ (tableFormat nbits).width

/-- The instruction the decoder reads from the bits `w` of an opcode-table row of `nbits` bits, every operand bit
beyond them 0 (no chunk, extra fields 0). -/
def decodeTableWord (nbits w : Nat) : Option Instr :=
  (decode ⟨tableFormat nbits, tableCode nbits w, 0, []⟩).toOption

end Sys2Proof
end

