-- ==== Sys2Proof/Machine/State.lean ====
section
/-! DEFINITION. The architectural state of the CORE (spec 10_state) as plain data, its reset value (70_reset R351),
and the reasons the model itself can stop. -/

namespace Sys2Proof.Machine

/-- `STATUS.MODE` (R35). -/
inductive Mode where
  | none
  | compress
  | decompress
  deriving DecidableEq, Repr

/-- `STATUS.PHASE` (R35, R291). -/
inductive Phase where
  | idle
  | active
  | done
  | finished
  | fault
  deriving DecidableEq, Repr

/-- `ESTATE` (R29, R200). -/
inductive EState where
  | accumulating
  | deciding
  | emitting
  deriving DecidableEq, Repr

/-- `DSTATE` (R31). -/
inductive DState where
  | hdr
  | storedLen
  | storedCopy
  | dynHdr
  | dynCl
  | dynLens
  | sym
  | done
  deriving DecidableEq, Repr

/-- The causes that `raise` records in `ERR` (R320) with their sub-causes (R321). -/
inductive Cause where
  /-- Code 1. -/
  | inputTooShort
  /-- Code 2. -/
  | malformedBlockType
  /-- Code 3, UNASSIGNED. -/
  | unassignedCode
  /-- Code 3, BAD_LITLEN. -/
  | badLitLen
  /-- Code 3, BAD_DIST. -/
  | badDist
  /-- Code 4. -/
  | distanceTooFar
  /-- Code 5. -/
  | checksumMismatch
  /-- Code 6. -/
  | outputLimitExceeded
  /-- Code 7, STORED_LEN. -/
  | storedLenCheck
  /-- Code 7, TOO_MANY_CODES. -/
  | tooManyCodes
  /-- Code 7, REPEAT_NO_PREV. -/
  | repeatNoPrev
  /-- Code 7, REPEAT_OVERRUN. -/
  | repeatOverrun
  /-- Code 7, OVERSUBSCRIBED. -/
  | oversubscribed
  /-- Code 7, NO_EOB_CODE. -/
  | noEobCode
  /-- Code 8. -/
  | invalidLevel
  /-- Code 9, RESERVED_CODE. -/
  | reservedCode
  /-- Code 9, WRONG_PHASE. -/
  | wrongPhase
  deriving DecidableEq, Repr

/-- A token (R29): the source's tagged union; the 24-bit packing "is illustrative" (log 4). -/
inductive Token where
  | literal (b : Byte)
  | backref (length distance : Nat)
  deriving DecidableEq, Repr

/-- An access of the host (R68, R69, R303, R350): the step executes them in order, one at a time. -/
inductive HostAccess where
  /-- `hostreg[reg] <- value`; `chunk` is what IN_PORT conveys with it. Only FEED takes it (log 9). -/
  | write (reg : Nat) (value : Word32) (chunk : List Byte)
  /-- A read of `hostreg[reg]`. -/
  | read (reg : Nat)
  /-- Taking one byte from the output stream (R68). -/
  | take
  /-- The hardware reset input (R350 (a)). -/
  | hardReset
  deriving DecidableEq, Repr

/-- The whole state of one CORE. -/
structure State where
  /-- `WBITS` and `EFFORT_TABLE` (R21): constants of the instance, written by no step (log 1). -/
  params : Params
  /-- Host accesses issued and not yet executed, oldest first (log 5). -/
  hostq : List HostAccess
  /-- The output stream: bytes emitted and not yet taken, oldest first (R60, log 8). -/
  out : List Byte
  /-- The word the last host read, or the byte the last take, delivered (log 20). -/
  rdata : Word32
  /-- `OACC` (R23). -/
  oacc : BitVec 8
  /-- `ONB` (R23). -/
  onb : BitVec 3
  /-- `BITPOS_OUT` (R23, log 2). -/
  bitposOut : Nat
  /-- `INQ`, oldest bit first (R24). -/
  inq : List Bool
  /-- `BITPOS_IN` (R24, log 2). -/
  bitposIn : Nat
  /-- The tentative cursor of the running decoder step: bits of `INQ` it has read (R124, R230, log 7). -/
  cursor : Nat
  /-- The match length the running `SYM` step has read, before its distance symbol (R258, log 7). -/
  pendLen : Option Nat
  /-- `LA`, oldest byte first (R25). -/
  la : List Byte
  /-- `WIN` in canonical form (R26, R62, log 3). -/
  win : List Host.Cell
  /-- `WPOS` (R26). -/
  wpos : Nat
  /-- `WHAVE` (R26). -/
  whave : Nat
  /-- `WTOTAL` (R26, log 2). -/
  wtotal : Nat
  /-- `HEAD`, listed entries only; an unlisted entry is NIL (R28). -/
  head : List (Nat × Nat)
  /-- `PREV`, listed entries only; an unlisted entry is NIL (R28). -/
  prev : List (Nat × Nat)
  /-- `EFFORT` (R28, log 17). -/
  effort : Nat
  /-- `TOK[0 .. NTOK−1]` (R29, log 4). -/
  tok : List Token
  /-- `BLK_BYTES` (R29). -/
  blkBytes : Nat
  /-- `ESTATE` (R29). -/
  estate : EState
  /-- `FINAL_SENT` (R29). -/
  finalSent : Bool
  /-- `DSTATE` (R31). -/
  dstate : DState
  /-- `BFINAL` (R31). -/
  bfinal : Bool
  /-- `REM` (R31). -/
  rem : BitVec 16
  /-- `NLEN` (R31). -/
  nlen : BitVec 9
  /-- `NDIST` (R31). -/
  ndist : BitVec 6
  /-- `NCODE` (R31). -/
  ncode : BitVec 5
  /-- `IDX` (R31). -/
  idx : BitVec 5
  /-- `CLL[0..18]` (R31). -/
  cll : Vector (BitVec 3) 19
  /-- `LENS[0 .. NL−1]` (R31, log 4). -/
  lens : List (BitVec 4)
  /-- `CLT` (R31). -/
  clt : DecodeTable
  /-- `LT` (R31). -/
  lt : DecodeTable
  /-- `DT` (R31). -/
  dt : DecodeTable
  /-- `S1` (R32). -/
  s1 : BitVec 16
  /-- `S2` (R32). -/
  s2 : BitVec 16
  /-- `TOTAL_IN` (R34, log 2). -/
  totalIn : Nat
  /-- `TOTAL_OUT` (R34, log 2). -/
  totalOut : Nat
  /-- `LEVEL[7:0]` (R30). -/
  level : BitVec 8
  /-- `OUT_LIMIT` (R30). -/
  outLimit : Word32
  /-- `CK_CTRL.VERIFY` (R30). -/
  verify : Bool
  /-- `CK_EXPECT` (R30). -/
  ckExpect : Word32
  /-- `STATUS.MODE` (R35). -/
  mode : Mode
  /-- `STATUS.PHASE` (R35). -/
  phase : Phase
  /-- `STATUS.TRAIL` (R35). -/
  trail : Bool
  /-- `STATUS.PENDING` (R35). -/
  pending : Bool
  /-- `ERR`: the recorded cause, `none` where `ERR` reads 0 (R320). -/
  err : Option Cause
  /-- `ERR_POS` (R30, R325, log 2). -/
  errPos : Nat
  deriving DecidableEq, Repr

/-- `NTOK` (R29): the number of tokens of the block being accumulated. -/
def State.ntok (s : State) : Nat := s.tok.length

/-- `NL` (R31): the number of code lengths decoded so far. -/
def State.nl (s : State) : Nat := s.lens.length

/-- The state right after hardware reset: the table of R351 with the default parameters of R5. -/
def State.reset : State where
  params := Params.default
  hostq := []
  out := []
  rdata := 0
  oacc := 0
  onb := 0
  bitposOut := 0
  inq := []
  bitposIn := 0
  cursor := 0
  pendLen := none
  la := []
  win := []
  wpos := 0
  whave := 0
  wtotal := 0
  head := []
  prev := []
  effort := 0
  tok := []
  blkBytes := 0
  estate := .accumulating
  finalSent := false
  dstate := .hdr
  bfinal := false
  rem := 0
  nlen := 0
  ndist := 0
  ncode := 0
  idx := 0
  cll := Vector.replicate 19 0
  lens := []
  clt := emptyTable
  lt := emptyTable
  dt := emptyTable
  s1 := 1
  s2 := 0
  totalIn := 0
  totalOut := 0
  level := 6
  outLimit := 0xFFFFFFFF
  verify := false
  ckExpect := 0
  mode := .none
  phase := .idle
  trail := false
  pending := false
  err := none
  errPos := 0

/-- Why the model itself stops. The block's own faults are NOT here: `raise` records them in the state (R325). -/
inductive Fault where
  /-- A distance symbol was executed although the running step has read no length symbol. Raised by the meanings of
  `DIST_0` to `DIST_29`. Safe: R258 forms a distance symbol only after a length symbol, and so does the step. -/
  | strayDistance
  deriving DecidableEq, Repr

/-- Why the model has no meaning for what it met. -/
inductive Refusal where
  /-- An instruction whose meaning is not written. Raised by no arm of this model. Safe. -/
  | notModelled (mnemonic : String)
  /-- The current decode table returned a symbol number that no alphabet has (R100 gives it no row). Raised by the
  fetch of a stream element. Safe: no table that the rules build holds such a symbol. -/
  | noSuchSymbol (symbol : Nat)
  /-- A command code of more than 8 bits. Raised by no access: `CMD` is read as its bits [7:0] (R81). Safe. -/
  | noSuchCommand (code : Nat)
  /-- A command stood where the decoder expects a stream element. Raised by the decoder loop. Safe: no fetch of the
  decoder reads the command format. -/
  | commandInStream
  deriving DecidableEq, Repr

end Sys2Proof.Machine
end

