-- ==== Sys2Proof/Machine/Memory.lean ====
section
/-! DEFINITION. The private memories `WIN`, `HEAD` and `PREV` as lists of (index, value) pairs in one canonical form:
indices strictly rising, no entry equal to what an unlisted index reads as (spec 20_memory R62, R63). -/

namespace Sys2Proof.Machine

/-- The listed entry at an index. -/
def sparseRead {α : Type} (m : List (Nat × α)) (k : Nat) : Option α :=
  match m with
  | [] => none
  | (a, v) :: t => if a = k then some v else sparseRead t k

/-- Sets the entry at an index; `none` leaves it unlisted. -/
def sparseWrite {α : Type} (m : List (Nat × α)) (k : Nat) (v : Option α) : List (Nat × α) :=
  match m with
  | [] => (v.map fun x => (k, x)).toList
  | (a, x) :: t =>
    if a < k then (a, x) :: sparseWrite t k v
    else if a = k then (v.map fun y => (k, y)).toList ++ t
    else (v.map fun y => (k, y)).toList ++ (a, x) :: t

/-- What a byte of `WIN` that nothing has written reads as. The reset content is unspecified and unobservable, and
"a model may therefore initialise all unspecified memories to zero" (R352; log 3). -/
def winUnwritten : Byte := 0

/-- One byte of `WIN` at a ring address (R62). -/
def winRead (m : List Host.Cell) (a : Nat) : Byte := (sparseRead m a).getD winUnwritten

/-- `WIN[a] <- b` (R62). -/
def winWrite (m : List Host.Cell) (a : Nat) (b : Byte) : List Host.Cell :=
  sparseWrite m a (if b = winUnwritten then none else some b)

/-- The indices of a memory strictly rise. -/
abbrev SparseSorted {α : Type} (m : List (Nat × α)) : Prop := m.Pairwise fun x y => x.1 < y.1

/-- The canonical form of `WIN`: addresses strictly rise and no entry holds what an unlisted address reads as. -/
abbrev Memory.wf (m : List Host.Cell) : Prop := SparseSorted m ∧ ∀ e ∈ m, e.2 ≠ winUnwritten

/-- All three memories are in canonical form. -/
abbrev State.MemWF (s : State) : Prop := Memory.wf s.win ∧ SparseSorted s.head ∧ SparseSorted s.prev

/-- `HEAD[h]`: a position or NIL (R28, R63). -/
def headRead (s : State) (h : Nat) : Option Nat := sparseRead s.head h

/-- `PREV[i]`: a position or NIL (R28, R63). -/
def prevRead (s : State) (i : Nat) : Option Nat := sparseRead s.prev i

end Sys2Proof.Machine
end

