-- ==== Sys2Proof/Machine/Flags.lean ====
section
/-! DEFINITION. The flags and the host's view of the registers: `STATUS` (spec 10_state R35), `ERR` (60_exceptions
R320, R321), `ADLER` (46_checksum R282), the host register file (R30, R303). -/

namespace Sys2Proof.Machine

/-- `STATUS.MODE` as its two bits (R35). -/
def Mode.code : Mode → Nat
  | .none => 0
  | .compress => 1
  | .decompress => 2

/-- `STATUS.PHASE` as its three bits (R35). -/
def Phase.code : Phase → Nat
  | .idle => 0
  | .active => 1
  | .done => 2
  | .finished => 3
  | .fault => 4

/-- `ERR.CODE` (R320). -/
def Cause.code : Cause → BitVec 8
  | .inputTooShort => 1
  | .malformedBlockType => 2
  | .unassignedCode => 3
  | .badLitLen => 3
  | .badDist => 3
  | .distanceTooFar => 4
  | .checksumMismatch => 5
  | .outputLimitExceeded => 6
  | .storedLenCheck => 7
  | .tooManyCodes => 7
  | .repeatNoPrev => 7
  | .repeatOverrun => 7
  | .oversubscribed => 7
  | .noEobCode => 7
  | .invalidLevel => 8
  | .reservedCode => 9
  | .wrongPhase => 9

/-- `ERR.INFO` (R321): 0 for every cause that the table does not list. -/
def Cause.info : Cause → BitVec 8
  | .inputTooShort => 0
  | .malformedBlockType => 0
  | .unassignedCode => 0
  | .badLitLen => 1
  | .badDist => 2
  | .distanceTooFar => 0
  | .checksumMismatch => 0
  | .outputLimitExceeded => 0
  | .storedLenCheck => 1
  | .tooManyCodes => 2
  | .repeatNoPrev => 3
  | .repeatOverrun => 4
  | .oversubscribed => 5
  | .noEobCode => 6
  | .invalidLevel => 0
  | .reservedCode => 0
  | .wrongPhase => 1

/-- `ERR_POS` records `BITPOS_IN` for the codes 1, 2, 3, 4, 6 and 7, and 0 otherwise (R325). -/
def Cause.hasPos (c : Cause) : Bool :=
  decide (c.code ∈ ([1, 2, 3, 4, 6, 7] : List (BitVec 8)))

/-- `ERR.CODE`, 0 where no fault is recorded (R30, R320). -/
def errCode (s : State) : BitVec 8 := match s.err with | none => 0 | some c => c.code

/-- `ERR.INFO`, 0 where no fault is recorded (R30, R321). -/
def errInfo (s : State) : BitVec 8 := match s.err with | none => 0 | some c => c.info

/-- The `ERR` register: `CODE` in bits [7:0], `INFO` in bits [15:8] (R30). -/
def errWord (s : State) : Word32 := (errInfo s).setWidth 32 <<< 8 ||| (errCode s).setWidth 32

/-- `ADLER = (S2 << 16) | S1` (R33, R282). -/
def adler (s : State) : Word32 := s.s2.setWidth 32 <<< 16 ||| s.s1.setWidth 32

/-- `STATUS.LAST` (R35): `BFINAL` in decompress mode, `FINAL_SENT` in compress mode (log 14). -/
def lastFlag (s : State) : Bool :=
  match s.mode with
  | .none => false
  | .compress => s.finalSent
  | .decompress => s.bfinal

/-- The `STATUS` register (R35): `MODE | PHASE << 2 | TRAIL << 5 | LAST << 6 | PENDING << 7`. -/
def statusWord (s : State) : Word32 :=
  .ofNat 32 (s.mode.code + s.phase.code * 2 ^ 2 + s.trail.toNat * 2 ^ 5 + (lastFlag s).toNat * 2 ^ 6 +
    s.pending.toNat * 2 ^ 7)

/-- What `STATUS.PENDING` becomes at the end of a command (R290 part 3; log 15 for MODE = NONE). -/
def pendingNow (s : State) : Bool :=
  match s.mode with
  | .none => false
  | .compress => !s.la.isEmpty
  | .decompress => !s.inq.isEmpty

/-- The low 32 bits of a 64-bit counter. -/
def lowWord (n : Nat) : Word32 := .ofNat 32 n

/-- The high 32 bits of a 64-bit counter. -/
def highWord (n : Nat) : Word32 := .ofNat 32 (n / 2 ^ 32)

/-- A host read of `hostreg[reg]` (R30, R303): no side effect; reserved bits and numbers from 14 on read 0. -/
def readReg (reg : Nat) (s : State) : Word32 :=
  match reg with
  | 1 => statusWord s
  | 2 => s.level.setWidth 32
  | 3 => s.outLimit
  | 4 => .ofNat 32 s.verify.toNat
  | 5 => s.ckExpect
  | 6 => adler s
  | 7 => errWord s
  | 8 => lowWord s.errPos
  | 9 => highWord s.errPos
  | 10 => lowWord s.totalIn
  | 11 => highWord s.totalIn
  | 12 => lowWord s.totalOut
  | 13 => highWord s.totalOut
  | _ => 0

/-- A host write of `hostreg[reg]` other than `CMD` (R30, R303): a configuration register takes its writable bits,
every other write is ignored. -/
def writeReg (reg : Nat) (v : Word32) (s : State) : State :=
  match reg with
  | 2 => { s with level := v.setWidth 8 }
  | 3 => { s with outLimit := v }
  | 4 => { s with verify := v.getLsbD 0 }
  | 5 => { s with ckExpect := v }
  | _ => s

end Sys2Proof.Machine
end

