-- ==== Sys2Proof/Machine/Ops.lean ====
section
/-! DEFINITION. The shared operations over the state: Bit I/O (spec 40_bitio), the checksum (46_checksum), the
Window Manager (41_window), taking a fault (60_exceptions R325) and the ways back out of it, which start a new
stream (47_commands R292, R302), and the end of a block (45_inflate R235). -/

namespace Sys2Proof.Machine

/-! ## Output side of Bit I/O -/

/-- The output side while bits are appended: `OACC`, `ONB` and the bytes completed so far. -/
structure BitSink where
  oacc : BitVec 8
  onb : BitVec 3
  emitted : List Byte
  deriving DecidableEq, Repr

/-- One pass of the loop of `PutBits` (R120): `OACC[ONB] <- bit`; the eighth bit emits the byte. -/
def sinkBit (k : BitSink) (bit : Bool) : BitSink :=
  let acc := (k.oacc &&& ~~~(1#8 <<< k.onb.toNat)) ||| (BitVec.ofBool bit).setWidth 8 <<< k.onb.toNat
  if k.onb = 7 then { oacc := 0, onb := 0, emitted := k.emitted ++ [acc] }
  else { oacc := acc, onb := k.onb + 1, emitted := k.emitted }

/-- Appends bits to the output bit stream, in list order (R120). -/
def putBitList (bits : List Bool) (s : State) : State :=
  let k := bits.foldl sinkBit { oacc := s.oacc, onb := s.onb, emitted := [] }
  { s with
    oacc := k.oacc
    onb := k.onb
    bitposOut := s.bitposOut + bits.length
    out := s.out ++ k.emitted
    totalOut := s.totalOut + k.emitted.length }

/-- `PutBits(v, n)` (R120). -/
def putBits (v n : Nat) (s : State) : State := putBitList (bitsLSB v n) s

/-- `PutCode(c, l)` (R121). -/
def putCode (c l : Nat) (s : State) : State := putBitList (bitsMSB c l) s

/-- How many zero bits `AlignOut` appends (R122). -/
def alignPad (s : State) : Nat := if s.onb = 0 then 0 else 8 - s.onb.toNat

/-- `AlignOut()` (R122). -/
def alignOut (s : State) : State := putBits 0 (alignPad s) s

/-! ## Input side of Bit I/O: reads at the tentative cursor (R124) -/

/-- The bits of `INQ` that the running step has not read yet. -/
def unread (s : State) : List Bool := s.inq.drop s.cursor

/-- The value of the next `n` unread bits (R124); `none` is hold. -/
def peekBits (n : Nat) (bits : List Bool) : Option Nat :=
  if bits.length < n then none else some (ofBitsLSB (bits.take n))

/-- The end of a completed step (R230): what it read leaves `INQ`, `BITPOS_IN` advances. -/
def commit (s : State) : State :=
  { s with inq := s.inq.drop s.cursor, bitposIn := s.bitposIn + s.cursor, cursor := 0, pendLen := none }

/-- The end of a held step (R128): nothing of it remains. -/
def rollback (s : State) : State := { s with cursor := 0, pendLen := none }

/-- The step has read `n` more bits. -/
def advance (n : Nat) (s : State) : State := { s with cursor := s.cursor + n }

/-- The pad of `AlignIn` (R125): the bits up to the next byte boundary of the input stream. -/
def alignInPad (s : State) : Nat := (8 - s.bitposIn % 8) % 8

/-! ## Checksum -/

/-- `Adler.update(b)` (R280): the second sum uses the new first sum. -/
def adlerUpdate (b : Byte) (s : State) : State :=
  let a := (s.s1.toNat + b.toNat) % adlerBase
  { s with s1 := .ofNat 16 a, s2 := .ofNat 16 ((s.s2.toNat + a) % adlerBase) }

/-! ## Window Manager -/

/-- `emit(b)` of the window, "which is also the output sink", in decompress mode (R140). -/
def windowEmit (b : Byte) (s : State) : State :=
  if s.mode = .decompress then { s with out := s.out ++ [b], totalOut := s.totalOut + 1 } else s

/-- `Window.append(b)` (R140). -/
def windowAppend (b : Byte) (s : State) : State :=
  windowEmit b (adlerUpdate b
    { s with
      win := winWrite s.win s.wpos b
      wpos := (s.wpos + 1) % wsize s.params
      whave := min (s.whave + 1) (wsize s.params)
      wtotal := s.wtotal + 1 })

/-- `Window.append(bytes)` (R141). -/
def windowAppendAll (bs : List Byte) (s : State) : State := bs.foldl (fun t b => windowAppend b t) s

/-- The ring address `distance` bytes before the end: `(WPOS − distance) mod WSIZE` (R142). -/
def copySource (distance : Nat) (s : State) : Nat :=
  (s.wpos + wsize s.params - distance % wsize s.params) % wsize s.params

/-- One pass of the loop of `Window.copy` (R142): the byte is read, then appended. -/
def copyByte (distance : Nat) (s : State) : State := windowAppend (winRead s.win (copySource distance s)) s

/-- `Window.copy(distance, length)` after its distance test (R142). -/
def windowCopy (distance : Nat) : (length : Nat) → State → State
  | 0, s => s
  | n + 1, s => windowCopy distance n (copyByte distance s)

/-! ## Taking a fault, and leaving it -/

/-- `raise E(info)` (R325): the tentative effects of the step are dropped, the cause and the position are recorded,
`PHASE` becomes FAULT; nothing else changes. -/
def raise (c : Cause) (s : State) : State :=
  { rollback s with err := some c, errPos := if c.hasPos then s.bitposIn else 0, phase := .fault }

/-- Part 3 of a command (R290): `PENDING` is set. -/
def endCommand (s : State) : State := { s with pending := pendingNow s }

/-- Hardware reset and RESET (R292, R350): every row of R351 takes its reset value. What is not of the block stays:
the parameters (log 1), the host's accesses and what it was handed (logs 5, 8, 20). -/
def resetState (s : State) : State :=
  { State.reset with params := s.params, hostq := s.hostq, out := s.out, rdata := s.rdata }

/-- `stream-reset` (R302): as `resetState`, but the four configuration registers keep their values. -/
def streamReset (s : State) : State :=
  { resetState s with level := s.level, outLimit := s.outLimit, verify := s.verify, ckExpect := s.ckExpect }

/-! ## Shared parts of the decoder's steps -/

/-- End of a block (R235). -/
def endOfBlock (s : State) : State := { s with dstate := if s.bfinal then .done else .hdr }

/-- The output cap test (R236): would `n` more bytes exceed `OUT_LIMIT`? -/
def overLimit (n : Nat) (s : State) : Bool := decide (s.outLimit.toNat < s.totalOut + n)

end Sys2Proof.Machine
end

