-- ==== Sys2Proof/Machine/Operands.lean ====
section
/-! DEFINITION. Operand assembly from the stream (spec 30_encoding R96, R98): which table reads the next symbol, how
many extra bits follow it, and the fetch of the next stream element as an instruction with its operands. -/

namespace Sys2Proof.Machine

/-- Match length of length symbol index `i` with extra value `x` (R91, R96). -/
def lengthOf (i x : Nat) : Nat := lenBase.getD i 0 + x

/-- Match distance of distance symbol `j` with extra value `x` (R93, R96). -/
def distanceOf (j x : Nat) : Nat := distBase.getD j 0 + x

/-- Repeat count of a code-length symbol with extra value `x` (R88, R96). -/
def repeatOf (sym x : Nat) : Nat := if sym = 18 then 11 + x else 3 + x

/-- What the fetch of the next stream element finds. -/
inductive Fetch where
  /-- An instruction with all its operands; the state has the cursor behind them. -/
  | element (i : Instr) (s : State)
  /-- Too few bits: the step holds (R128). -/
  | hold
  /-- The bits form no assigned code (R126). -/
  | unassigned
  /-- The table returned a symbol that no alphabet has (R100). -/
  | noSuchSymbol (sym : Nat)
  deriving DecidableEq, Repr

/-- How many extra bits the step asks for after a symbol. The test REPEAT_NO_PREV of `REP16` stands before its
`GetBits(2)` (R246, R330 item 1), so with no previous length those two bits are not asked for. -/
def extraAsked (f : Format) (sym : Nat) (s : State) : Nat :=
  if f = .clSym ∧ sym = 16 ∧ s.lens = [] then 0 else extraWidth f sym

/-- Fetches an element that begins with a Huffman code of table `T` (R98): `DecodeSym(T)`, then the extra bits. -/
def fetchSymbol (f : Format) (T : DecodeTable) (s : State) : Fetch :=
  match decodeSym T (unread s) with
  | .hold => .hold
  | .unassigned => .unassigned
  | .sym y n =>
    match peekBits (extraAsked f y s) ((unread s).drop n) with
    | none => .hold
    | some x =>
      match decode ⟨f, y, x, []⟩ with
      | .ok i => .element i (advance (n + extraAsked f y s) s)
      | .error _ => .noSuchSymbol y

/-- Fetches a block header (R82, R231). -/
def fetchHeader (s : State) : Fetch :=
  match peekBits 3 (unread s) with
  | none => .hold
  | some h =>
    match decode ⟨.blockHdr, h, 0, []⟩ with
    | .ok i => .element i (advance 3 s)
    | .error _ => .noSuchSymbol h

/-- The element at the decoder's program counter, by `DSTATE` and by how far the running step has come (R98, R230):
a header, a code-length symbol, a literal/length symbol, or the distance symbol of a match. `none` where the next
step is no element of the opcode table. -/
def fetchElement (s : State) : Option Fetch :=
  match s.dstate with
  | .hdr => some (fetchHeader s)
  | .dynLens => some (fetchSymbol .clSym s.clt s)
  | .sym =>
    match s.pendLen with
    | none => some (fetchSymbol .litlenSym s.lt s)
    | some _ => some (fetchSymbol .distSym s.dt s)
  | .storedLen => none
  | .storedCopy => none
  | .dynHdr => none
  | .dynCl => none
  | .done => none

end Sys2Proof.Machine
end

