-- ==== Sys2Proof/Machine/Blocks.lean ====
section
/-! DEFINITION. The block headers (spec 45_inflate R231, R261) and the decoder steps that read what follows a header
and are no row of the opcode table: `STORED_LEN`, `STORED_COPY`, `DYN_HDR`, `DYN_CL` (R233, R234, R240, R242). A step
answers `none` where it holds (R128). -/

namespace Sys2Proof.Machine

/-- A header has been read (R231): the step completes with `BFINAL` and the next `DSTATE`. -/
def enterBlock (final : Bool) (next : DState) (s : State) : State :=
  { commit s with bfinal := final, dstate := next }

/-- `BLOCK_STORED` (R231, R233). -/
def execBlockStored (final : Bool) (s : State) : Host.Outcome State Fault Refusal :=
  .next (enterBlock final .storedLen s)

/-- `BLOCK_FIXED` (R231, R261): the fixed tables become current. -/
def execBlockFixed (final : Bool) (s : State) : Host.Outcome State Fault Refusal :=
  .next { enterBlock final .sym s with lt := fixedLT, dt := fixedDT }

/-- `BLOCK_DYNAMIC` (R231, R240). -/
def execBlockDynamic (final : Bool) (s : State) : Host.Outcome State Fault Refusal :=
  .next (enterBlock final .dynHdr s)

/-- `BLOCK_RESERVED` (R231): `MalformedBlockTypeError`, nothing consumed, `BFINAL` unchanged. -/
def execBlockReserved (_final : Bool) (s : State) : Host.Outcome State Fault Refusal :=
  .next (raise .malformedBlockType s)

/-- Step `STORED_LEN` (R233). -/
def storedLenStep (s : State) : Option State :=
  match peekBits 16 ((unread s).drop (alignInPad s)), peekBits 16 ((unread s).drop (alignInPad s + 16)) with
  | some len, some nlen =>
    if nlen ≠ 0xFFFF - len then some (raise .storedLenCheck s)
    else if overLimit len s then some (raise .outputLimitExceeded s)
    else
      let t := { commit (advance (alignInPad s + 32) s) with rem := .ofNat 16 len }
      some (if len = 0 then endOfBlock t else { t with dstate := .storedCopy })
  | _, _ => none

/-- Step `STORED_COPY` (R234): one byte. -/
def storedCopyStep (s : State) : Option State :=
  match peekBits 8 (unread s) with
  | none => none
  | some b =>
    let t := windowAppend (.ofNat 8 b) (commit (advance 8 s))
    let u := { t with rem := t.rem - 1 }
    some (if u.rem = 0 then endOfBlock u else u)

/-- Step `DYN_HDR` (R240). -/
def dynHdrStep (s : State) : Option State :=
  match peekBits 14 (unread s) with
  | none => none
  | some v =>
    let nlen := v % 2 ^ 5 + 257
    let ndist := v / 2 ^ 5 % 2 ^ 5 + 1
    let ncode := v / 2 ^ 10 % 2 ^ 4 + 4
    if nLitLen < nlen ∨ nDist < ndist then some (raise .tooManyCodes s)
    else
      some { commit (advance 14 s) with
        nlen := .ofNat 9 nlen
        ndist := .ofNat 6 ndist
        ncode := .ofNat 5 ncode
        cll := Vector.replicate 19 0
        idx := 0
        dstate := .dynCl }

/-- Step `DYN_CL` (R242, R244): one code-length-code length; the last one builds `CLT`. -/
def dynClStep (s : State) : Option State :=
  match peekBits 3 (unread s) with
  | none => none
  | some v =>
    let t := { commit (advance 3 s) with
      cll := s.cll.setIfInBounds (clOrder.getD s.idx.toNat 19) (.ofNat 3 v)
      idx := s.idx + 1 }
    if t.idx = t.ncode then
      match buildDecodeTable (t.cll.toList.map BitVec.toNat) with
      | none => some (raise .oversubscribed s)
      | some T => some { t with clt := T, lens := [], dstate := .dynLens }
    else some t

end Sys2Proof.Machine
end

