-- ==== Sys2Proof/Machine/CodeLengths.lean ====
section
/-! DEFINITION. The code-length symbols of a dynamic header (spec 45_inflate R246) and the end of the header (R250,
R252). -/

namespace Sys2Proof.Machine

/-- The literal/length code lengths of a complete header (R250): symbols beyond `NLEN` have length 0. -/
def headerLitLens (nlen : Nat) (lens : List (BitVec 4)) : List Nat :=
  ((lens.take nlen).map BitVec.toNat).rightpad nLitLen 0

/-- The distance code lengths of a complete header (R250): symbols beyond `NDIST` have length 0. -/
def headerDistLens (nlen ndist : Nat) (lens : List (BitVec 4)) : List Nat :=
  (((lens.drop nlen).take ndist).map BitVec.toNat).rightpad nDist 0

/-- Finishing the header (R250, R252) inside the step that completed the lengths: `s` is the state before the step's
effect, `t` the state with the last item appended. -/
def finishHeader (s t : State) : State :=
  let ll := headerLitLens t.nlen.toNat t.lens
  let dl := headerDistLens t.nlen.toNat t.ndist.toNat t.lens
  if ll.getD 256 0 = 0 then raise .noEobCode s
  else match buildDecodeTable ll, buildDecodeTable dl with
    | some lt, some dt => { t with lt := lt, dt := dt, dstate := .sym }
    | _, _ => raise .oversubscribed s

/-- The shared end of a code-length step (R246): `n` lengths of value `v`. -/
def appendLengths (v : BitVec 4) (n : Nat) (s : State) : State :=
  if s.nlen.toNat + s.ndist.toNat < s.nl + n then raise .repeatOverrun s
  else
    let t := { commit s with lens := s.lens ++ List.replicate n v }
    if t.nl = s.nlen.toNat + s.ndist.toNat then finishHeader s t else t

/-- `CL` (R246): one length. -/
def execCl (len : BitVec 4) (s : State) : Host.Outcome State Fault Refusal :=
  .next (appendLengths len 1 s)

/-- `REP16` (R246): repeats the previous length. -/
def execRep16 (extra : BitVec 2) (s : State) : Host.Outcome State Fault Refusal :=
  .next (match s.lens.getLast? with
    | none => raise .repeatNoPrev s
    | some v => appendLengths v (repeatOf 16 extra.toNat) s)

/-- `REPZ17` (R246): a run of zeros. -/
def execRepz17 (extra : BitVec 3) (s : State) : Host.Outcome State Fault Refusal :=
  .next (appendLengths 0 (repeatOf 17 extra.toNat) s)

/-- `REPZ18` (R246): a long run of zeros. -/
def execRepz18 (extra : BitVec 7) (s : State) : Host.Outcome State Fault Refusal :=
  .next (appendLengths 0 (repeatOf 18 extra.toNat) s)

end Sys2Proof.Machine
end

