-- ==== Sys2Proof/Machine/Symbols.lean ====
section
/-! DEFINITION. The literal/length and distance symbols (spec 45_inflate R254 to R259): one definition per row of the
opcode table, over four shared operations. -/

namespace Sys2Proof.Machine

/-- A literal (R255): the cap test, then `Window.append`. -/
def literal (b : Byte) (s : State) : State :=
  if overLimit 1 s then raise .outputLimitExceeded s else windowAppend b (commit s)

/-- The length half of a match (R258): the step now knows its length; nothing is consumed before the distance half
completes (R230). -/
def matchLengthHalf (i : Nat) (extra : BitVec 5) (s : State) : State :=
  { s with pendLen := some (lengthOf i extra.toNat) }

/-- A match of known length and distance (R258): the distance test, the cap test, the copy. -/
def copyMatch (length distance : Nat) (s : State) : State :=
  if s.whave < distance then raise .distanceTooFar s
  else if overLimit length s then raise .outputLimitExceeded s
  else windowCopy distance length (commit s)

/-- The distance half of a match (R258). -/
def matchDistanceHalf (j : Nat) (extra : BitVec 13) (s : State) : Host.Outcome State Fault Refusal :=
  match s.pendLen with
  | none => .fault .strayDistance
  | some length => .next (copyMatch length (distanceOf j extra.toNat) s)

/-- `LIT` of the symbols 0..127 (R255). -/
def execLit000_127 (byte : Byte) (s : State) : Host.Outcome State Fault Refusal := .next (literal byte s)

/-- `LIT` of the symbols 128..143 (R255). -/
def execLit128_143 (byte : Byte) (s : State) : Host.Outcome State Fault Refusal := .next (literal byte s)

/-- `LIT` of the symbols 144..159 (R255). -/
def execLit144_159 (byte : Byte) (s : State) : Host.Outcome State Fault Refusal := .next (literal byte s)

/-- `LIT` of the symbols 160..191 (R255). -/
def execLit160_191 (byte : Byte) (s : State) : Host.Outcome State Fault Refusal := .next (literal byte s)

/-- `LIT` of the symbols 192..255 (R255). -/
def execLit192_255 (byte : Byte) (s : State) : Host.Outcome State Fault Refusal := .next (literal byte s)

/-- `EOB` (R259): the end of the block by R235. -/
def execEob (s : State) : Host.Outcome State Fault Refusal := .next (endOfBlock (commit s))

/-- Length symbol 257 (R258). -/
def execLen257 (extra : BitVec 5) (s : State) : Host.Outcome State Fault Refusal := .next (matchLengthHalf 0 extra s)

/-- Length symbol 258 (R258). -/
def execLen258 (extra : BitVec 5) (s : State) : Host.Outcome State Fault Refusal := .next (matchLengthHalf 1 extra s)

/-- Length symbol 259 (R258). -/
def execLen259 (extra : BitVec 5) (s : State) : Host.Outcome State Fault Refusal := .next (matchLengthHalf 2 extra s)

/-- Length symbol 260 (R258). -/
def execLen260 (extra : BitVec 5) (s : State) : Host.Outcome State Fault Refusal := .next (matchLengthHalf 3 extra s)

/-- Length symbol 261 (R258). -/
def execLen261 (extra : BitVec 5) (s : State) : Host.Outcome State Fault Refusal := .next (matchLengthHalf 4 extra s)

/-- Length symbol 262 (R258). -/
def execLen262 (extra : BitVec 5) (s : State) : Host.Outcome State Fault Refusal := .next (matchLengthHalf 5 extra s)

/-- Length symbol 263 (R258). -/
def execLen263 (extra : BitVec 5) (s : State) : Host.Outcome State Fault Refusal := .next (matchLengthHalf 6 extra s)

/-- Length symbol 264 (R258). -/
def execLen264 (extra : BitVec 5) (s : State) : Host.Outcome State Fault Refusal := .next (matchLengthHalf 7 extra s)

/-- Length symbol 265 (R258). -/
def execLen265 (extra : BitVec 5) (s : State) : Host.Outcome State Fault Refusal := .next (matchLengthHalf 8 extra s)

/-- Length symbol 266 (R258). -/
def execLen266 (extra : BitVec 5) (s : State) : Host.Outcome State Fault Refusal := .next (matchLengthHalf 9 extra s)

/-- Length symbol 267 (R258). -/
def execLen267 (extra : BitVec 5) (s : State) : Host.Outcome State Fault Refusal := .next (matchLengthHalf 10 extra s)

/-- Length symbol 268 (R258). -/
def execLen268 (extra : BitVec 5) (s : State) : Host.Outcome State Fault Refusal := .next (matchLengthHalf 11 extra s)

/-- Length symbol 269 (R258). -/
def execLen269 (extra : BitVec 5) (s : State) : Host.Outcome State Fault Refusal := .next (matchLengthHalf 12 extra s)

/-- Length symbol 270 (R258). -/
def execLen270 (extra : BitVec 5) (s : State) : Host.Outcome State Fault Refusal := .next (matchLengthHalf 13 extra s)

/-- Length symbol 271 (R258). -/
def execLen271 (extra : BitVec 5) (s : State) : Host.Outcome State Fault Refusal := .next (matchLengthHalf 14 extra s)

/-- Length symbol 272 (R258). -/
def execLen272 (extra : BitVec 5) (s : State) : Host.Outcome State Fault Refusal := .next (matchLengthHalf 15 extra s)

/-- Length symbol 273 (R258). -/
def execLen273 (extra : BitVec 5) (s : State) : Host.Outcome State Fault Refusal := .next (matchLengthHalf 16 extra s)

/-- Length symbol 274 (R258). -/
def execLen274 (extra : BitVec 5) (s : State) : Host.Outcome State Fault Refusal := .next (matchLengthHalf 17 extra s)

/-- Length symbol 275 (R258). -/
def execLen275 (extra : BitVec 5) (s : State) : Host.Outcome State Fault Refusal := .next (matchLengthHalf 18 extra s)

/-- Length symbol 276 (R258). -/
def execLen276 (extra : BitVec 5) (s : State) : Host.Outcome State Fault Refusal := .next (matchLengthHalf 19 extra s)

/-- Length symbol 277 (R258). -/
def execLen277 (extra : BitVec 5) (s : State) : Host.Outcome State Fault Refusal := .next (matchLengthHalf 20 extra s)

/-- Length symbol 278 (R258). -/
def execLen278 (extra : BitVec 5) (s : State) : Host.Outcome State Fault Refusal := .next (matchLengthHalf 21 extra s)

/-- Length symbol 279 (R258). -/
def execLen279 (extra : BitVec 5) (s : State) : Host.Outcome State Fault Refusal := .next (matchLengthHalf 22 extra s)

/-- Length symbol 280 (R258). -/
def execLen280 (extra : BitVec 5) (s : State) : Host.Outcome State Fault Refusal := .next (matchLengthHalf 23 extra s)

/-- Length symbol 281 (R258). -/
def execLen281 (extra : BitVec 5) (s : State) : Host.Outcome State Fault Refusal := .next (matchLengthHalf 24 extra s)

/-- Length symbol 282 (R258). -/
def execLen282 (extra : BitVec 5) (s : State) : Host.Outcome State Fault Refusal := .next (matchLengthHalf 25 extra s)

/-- Length symbol 283 (R258). -/
def execLen283 (extra : BitVec 5) (s : State) : Host.Outcome State Fault Refusal := .next (matchLengthHalf 26 extra s)

/-- Length symbol 284 (R258). -/
def execLen284 (extra : BitVec 5) (s : State) : Host.Outcome State Fault Refusal := .next (matchLengthHalf 27 extra s)

/-- Length symbol 285 (R258). -/
def execLen285 (extra : BitVec 5) (s : State) : Host.Outcome State Fault Refusal := .next (matchLengthHalf 28 extra s)

/-- Code points 286 and 287 (R256): `InvalidHuffmanCodeError(BAD_LITLEN)`. -/
def execLitlenInvalid286_287 (_low : BitVec 1) (s : State) : Host.Outcome State Fault Refusal := .next (raise .badLitLen s)

/-- Distance symbol 0 (R258). -/
def execDist0 (extra : BitVec 13) (s : State) : Host.Outcome State Fault Refusal := matchDistanceHalf 0 extra s

/-- Distance symbol 1 (R258). -/
def execDist1 (extra : BitVec 13) (s : State) : Host.Outcome State Fault Refusal := matchDistanceHalf 1 extra s

/-- Distance symbol 2 (R258). -/
def execDist2 (extra : BitVec 13) (s : State) : Host.Outcome State Fault Refusal := matchDistanceHalf 2 extra s

/-- Distance symbol 3 (R258). -/
def execDist3 (extra : BitVec 13) (s : State) : Host.Outcome State Fault Refusal := matchDistanceHalf 3 extra s

/-- Distance symbol 4 (R258). -/
def execDist4 (extra : BitVec 13) (s : State) : Host.Outcome State Fault Refusal := matchDistanceHalf 4 extra s

/-- Distance symbol 5 (R258). -/
def execDist5 (extra : BitVec 13) (s : State) : Host.Outcome State Fault Refusal := matchDistanceHalf 5 extra s

/-- Distance symbol 6 (R258). -/
def execDist6 (extra : BitVec 13) (s : State) : Host.Outcome State Fault Refusal := matchDistanceHalf 6 extra s

/-- Distance symbol 7 (R258). -/
def execDist7 (extra : BitVec 13) (s : State) : Host.Outcome State Fault Refusal := matchDistanceHalf 7 extra s

/-- Distance symbol 8 (R258). -/
def execDist8 (extra : BitVec 13) (s : State) : Host.Outcome State Fault Refusal := matchDistanceHalf 8 extra s

/-- Distance symbol 9 (R258). -/
def execDist9 (extra : BitVec 13) (s : State) : Host.Outcome State Fault Refusal := matchDistanceHalf 9 extra s

/-- Distance symbol 10 (R258). -/
def execDist10 (extra : BitVec 13) (s : State) : Host.Outcome State Fault Refusal := matchDistanceHalf 10 extra s

/-- Distance symbol 11 (R258). -/
def execDist11 (extra : BitVec 13) (s : State) : Host.Outcome State Fault Refusal := matchDistanceHalf 11 extra s

/-- Distance symbol 12 (R258). -/
def execDist12 (extra : BitVec 13) (s : State) : Host.Outcome State Fault Refusal := matchDistanceHalf 12 extra s

/-- Distance symbol 13 (R258). -/
def execDist13 (extra : BitVec 13) (s : State) : Host.Outcome State Fault Refusal := matchDistanceHalf 13 extra s

/-- Distance symbol 14 (R258). -/
def execDist14 (extra : BitVec 13) (s : State) : Host.Outcome State Fault Refusal := matchDistanceHalf 14 extra s

/-- Distance symbol 15 (R258). -/
def execDist15 (extra : BitVec 13) (s : State) : Host.Outcome State Fault Refusal := matchDistanceHalf 15 extra s

/-- Distance symbol 16 (R258). -/
def execDist16 (extra : BitVec 13) (s : State) : Host.Outcome State Fault Refusal := matchDistanceHalf 16 extra s

/-- Distance symbol 17 (R258). -/
def execDist17 (extra : BitVec 13) (s : State) : Host.Outcome State Fault Refusal := matchDistanceHalf 17 extra s

/-- Distance symbol 18 (R258). -/
def execDist18 (extra : BitVec 13) (s : State) : Host.Outcome State Fault Refusal := matchDistanceHalf 18 extra s

/-- Distance symbol 19 (R258). -/
def execDist19 (extra : BitVec 13) (s : State) : Host.Outcome State Fault Refusal := matchDistanceHalf 19 extra s

/-- Distance symbol 20 (R258). -/
def execDist20 (extra : BitVec 13) (s : State) : Host.Outcome State Fault Refusal := matchDistanceHalf 20 extra s

/-- Distance symbol 21 (R258). -/
def execDist21 (extra : BitVec 13) (s : State) : Host.Outcome State Fault Refusal := matchDistanceHalf 21 extra s

/-- Distance symbol 22 (R258). -/
def execDist22 (extra : BitVec 13) (s : State) : Host.Outcome State Fault Refusal := matchDistanceHalf 22 extra s

/-- Distance symbol 23 (R258). -/
def execDist23 (extra : BitVec 13) (s : State) : Host.Outcome State Fault Refusal := matchDistanceHalf 23 extra s

/-- Distance symbol 24 (R258). -/
def execDist24 (extra : BitVec 13) (s : State) : Host.Outcome State Fault Refusal := matchDistanceHalf 24 extra s

/-- Distance symbol 25 (R258). -/
def execDist25 (extra : BitVec 13) (s : State) : Host.Outcome State Fault Refusal := matchDistanceHalf 25 extra s

/-- Distance symbol 26 (R258). -/
def execDist26 (extra : BitVec 13) (s : State) : Host.Outcome State Fault Refusal := matchDistanceHalf 26 extra s

/-- Distance symbol 27 (R258). -/
def execDist27 (extra : BitVec 13) (s : State) : Host.Outcome State Fault Refusal := matchDistanceHalf 27 extra s

/-- Distance symbol 28 (R258). -/
def execDist28 (extra : BitVec 13) (s : State) : Host.Outcome State Fault Refusal := matchDistanceHalf 28 extra s

/-- Distance symbol 29 (R258). -/
def execDist29 (extra : BitVec 13) (s : State) : Host.Outcome State Fault Refusal := matchDistanceHalf 29 extra s

/-- Code points 30 and 31 (R257): `InvalidHuffmanCodeError(BAD_DIST)`. -/
def execDistInvalid30_31 (_low : BitVec 1) (s : State) : Host.Outcome State Fault Refusal := .next (raise .badDist s)

end Sys2Proof.Machine
end

