-- ==== Sys2Proof/Machine/Inflate.lean ====
section
/-! DEFINITION. The decoder loop (spec 45_inflate R230): one step of it, and `Decode()`, which FEED runs. -/

namespace Sys2Proof.Machine

/-- The meaning of an instruction that is a stream element: the definitions that `exec` calls for it. A command is no
stream element, and no fetch of the decoder gives one. -/
def execElement (i : Instr) (s : State) : Host.Outcome State Fault Refusal :=
  match i with
  | .reset => .refused .commandInStream
  | .cinit => .refused .commandInStream
  | .dinit => .refused .commandInStream
  | .feed _ => .refused .commandInStream
  | .flush => .refused .commandInStream
  | .finish => .refused .commandInStream
  | .cmdReserved00 => .refused .commandInStream
  | .cmdReserved07 => .refused .commandInStream
  | .cmdReserved080F _ => .refused .commandInStream
  | .cmdReserved101F _ => .refused .commandInStream
  | .cmdReserved203F _ => .refused .commandInStream
  | .cmdReserved407F _ => .refused .commandInStream
  | .cmdReserved80FF _ => .refused .commandInStream
  | .blockStored final => execBlockStored final s
  | .blockFixed final => execBlockFixed final s
  | .blockDynamic final => execBlockDynamic final s
  | .blockReserved final => execBlockReserved final s
  | .lit000_127 byte => execLit000_127 byte s
  | .lit128_143 byte => execLit128_143 byte s
  | .lit144_159 byte => execLit144_159 byte s
  | .lit160_191 byte => execLit160_191 byte s
  | .lit192_255 byte => execLit192_255 byte s
  | .eob => execEob s
  | .len257 extra => execLen257 extra s
  | .len258 extra => execLen258 extra s
  | .len259 extra => execLen259 extra s
  | .len260 extra => execLen260 extra s
  | .len261 extra => execLen261 extra s
  | .len262 extra => execLen262 extra s
  | .len263 extra => execLen263 extra s
  | .len264 extra => execLen264 extra s
  | .len265 extra => execLen265 extra s
  | .len266 extra => execLen266 extra s
  | .len267 extra => execLen267 extra s
  | .len268 extra => execLen268 extra s
  | .len269 extra => execLen269 extra s
  | .len270 extra => execLen270 extra s
  | .len271 extra => execLen271 extra s
  | .len272 extra => execLen272 extra s
  | .len273 extra => execLen273 extra s
  | .len274 extra => execLen274 extra s
  | .len275 extra => execLen275 extra s
  | .len276 extra => execLen276 extra s
  | .len277 extra => execLen277 extra s
  | .len278 extra => execLen278 extra s
  | .len279 extra => execLen279 extra s
  | .len280 extra => execLen280 extra s
  | .len281 extra => execLen281 extra s
  | .len282 extra => execLen282 extra s
  | .len283 extra => execLen283 extra s
  | .len284 extra => execLen284 extra s
  | .len285 extra => execLen285 extra s
  | .litlenInvalid286_287 low => execLitlenInvalid286_287 low s
  | .dist0 extra => execDist0 extra s
  | .dist1 extra => execDist1 extra s
  | .dist2 extra => execDist2 extra s
  | .dist3 extra => execDist3 extra s
  | .dist4 extra => execDist4 extra s
  | .dist5 extra => execDist5 extra s
  | .dist6 extra => execDist6 extra s
  | .dist7 extra => execDist7 extra s
  | .dist8 extra => execDist8 extra s
  | .dist9 extra => execDist9 extra s
  | .dist10 extra => execDist10 extra s
  | .dist11 extra => execDist11 extra s
  | .dist12 extra => execDist12 extra s
  | .dist13 extra => execDist13 extra s
  | .dist14 extra => execDist14 extra s
  | .dist15 extra => execDist15 extra s
  | .dist16 extra => execDist16 extra s
  | .dist17 extra => execDist17 extra s
  | .dist18 extra => execDist18 extra s
  | .dist19 extra => execDist19 extra s
  | .dist20 extra => execDist20 extra s
  | .dist21 extra => execDist21 extra s
  | .dist22 extra => execDist22 extra s
  | .dist23 extra => execDist23 extra s
  | .dist24 extra => execDist24 extra s
  | .dist25 extra => execDist25 extra s
  | .dist26 extra => execDist26 extra s
  | .dist27 extra => execDist27 extra s
  | .dist28 extra => execDist28 extra s
  | .dist29 extra => execDist29 extra s
  | .distInvalid30_31 low => execDistInvalid30_31 low s
  | .cl len => execCl len s
  | .rep16 extra => execRep16 extra s
  | .repz17 extra => execRepz17 extra s
  | .repz18 extra => execRepz18 extra s

/-- Runs what the fetch found: the element, or the fault of a code that is not assigned (R126); `none` is hold. -/
def runFetch (run : Instr → State → Host.Outcome State Fault Refusal) (s : State) (f : Fetch) :
    Option (Host.Outcome State Fault Refusal) :=
  match f with
  | .element i t => some (run i t)
  | .hold => none
  | .unassigned => some (.next (raise .unassignedCode s))
  | .noSuchSymbol y => some (.refused (.noSuchSymbol y))

/-- The steps that are no element of the opcode table, by `DSTATE`; `none` is hold. -/
def plainStep (s : State) : Option State :=
  match s.dstate with
  | .storedLen => storedLenStep s
  | .storedCopy => storedCopyStep s
  | .dynHdr => dynHdrStep s
  | .dynCl => dynClStep s
  | .hdr => none
  | .dynLens => none
  | .sym => none
  | .done => none

/-- A match of which the step has read the length symbol holds at its distance symbol (R128, R258). -/
def distanceHolds (t : State) : Bool :=
  t.pendLen.isSome && (match fetchElement t with | some .hold => true | _ => false)

/-- A length symbol whose distance half holds does not happen: the whole element is one step (R254, R230). -/
def wholeElement (o : Host.Outcome State Fault Refusal) : Option (Host.Outcome State Fault Refusal) :=
  match o with
  | .next t => if distanceHolds t then none else some (.next t)
  | .fault r => some (.fault r)
  | .refused r => some (.refused r)

/-- One transition of the decoder (R230), `run` giving the elements their meaning: the element at the program
counter, or the step that is none; `none` is hold (R128). A match takes two transitions, its length symbol and its
distance symbol, and the first is made only if the second can be (log 7). -/
def decoderStep (run : Instr → State → Host.Outcome State Fault Refusal) (s : State) :
    Option (Host.Outcome State Fault Refusal) :=
  match fetchElement s with
  | some f => (runFetch run s f).bind wholeElement
  | none => (plainStep s).map .next

/-- The decoder has a step to try: a stream is open in decompress mode and `DSTATE ≠ DONE` (R230, R291). -/
def decoding (s : State) : Bool :=
  decide (s.mode = .decompress) && decide (s.phase = .active) && !decide (s.dstate = .done)

/-- The loop of `Decode()` (R230). Every transition but the last reads at least one more bit of `INQ`, so
`|INQ| + 1` passes suffice (log 18). -/
def decodeLoop : (fuel : Nat) → State → Host.Outcome State Fault Refusal
  | 0, s => .next s
  | fuel + 1, s =>
    if decoding s then
      match decoderStep execElement s with
      | none => .next (rollback s)
      | some (.next t) => decodeLoop fuel t
      | some (.fault r) => .fault r
      | some (.refused r) => .refused r
    else .next s

/-- `Decode()` (R230). -/
def decodeStream (s : State) : Host.Outcome State Fault Refusal := decodeLoop (s.inq.length + 1) s

end Sys2Proof.Machine
end

