-- ==== Sys2Proof/Machine/Matcher.lean ====
section
/-! DEFINITION. The Hash-Chain Matcher (spec 42_matcher R150 to R157). -/

namespace Sys2Proof.Machine

/-- `DATA(p)` (R150): history from the window, the rest from the lookahead. -/
def dataAt (s : State) (p : Nat) : Byte :=
  if p < s.wtotal then winRead s.win (p % wsize s.params) else s.la.getD (p - s.wtotal) 0

/-- `hash(b0, b1, b2)` (R151); the 15-bit type is the `AND 0x7FFF`. -/
def hash3 (b0 b1 b2 : Byte) : BitVec 15 :=
  b0.setWidth 15 <<< 10 ^^^ b1.setWidth 15 <<< 5 ^^^ b2.setWidth 15

/-- `hash at p` (R151), as the index of `HEAD`. -/
def hashAt (s : State) (p : Nat) : Nat := (hash3 (dataAt s p) (dataAt s (p + 1)) (dataAt s (p + 2))).toNat

/-- `insert(p)` (R152). -/
def insertPos (p : Nat) (s : State) : State :=
  { s with
    prev := sparseWrite s.prev (p % wsize s.params) (headRead s (hashAt s p))
    head := sparseWrite s.head (hashAt s p) (some p) }

/-- The inner loop of `findMatch` (R154): how many of `n` bytes at `a` and at `b` agree from the front. -/
def matchLength (s : State) (a b : Nat) : (n : Nat) → Nat
  | 0 => 0
  | n + 1 => if dataAt s a = dataAt s b then matchLength s (a + 1) (b + 1) n + 1 else 0

/-- The best candidate so far (R154). -/
structure Best where
  len : Nat
  dist : Nat
  deriving DecidableEq, Repr

/-- The chain walk of `findMatch` (R154) from candidate `q`, with `budget` candidates still to examine. -/
def walkChain (s : State) (p maxlen : Nat) : (budget : Nat) → (q : Option Nat) → Best → Best
  | 0, _, best => best
  | _ + 1, none, best => best
  | n + 1, some q, best =>
    if p - q ≤ wsize s.params then
      let len := matchLength s q p maxlen
      walkChain s p maxlen n (prevRead s (q % wsize s.params))
        (if best.len < len then { len := len, dist := p - q } else best)
    else best

/-- `findMatch(p, effort, maxlen)` (R154): the token of the match, if any. -/
def findMatch (s : State) (p effort maxlen : Nat) : Option Best :=
  if maxlen < minMatch ∨ effort = 0 then none
  else
    let best := walkChain s p maxlen effort (headRead s (hashAt s p)) { len := 2, dist := 0 }
    if minMatch ≤ best.len then some best else none

end Sys2Proof.Machine
end

