-- ==== Sys2Proof/Machine/Encoder.lean ====
section
/-! DEFINITION. The Block Encoder (spec 44_block_encoder R200 to R217): frequencies, costs, choice of the block type
and emission. Everything but `emitBlock` is a pure function of the block's tokens: scratch values that are no state
(R203, 10_state R21). -/

namespace Sys2Proof.Machine

/-! ## Frequencies (R203) -/

/-- The literal/length symbol of a token. -/
def litLenSymbol : Token → Nat
  | .literal b => b.toNat
  | .backref length _ => 257 + lenIndex length

/-- The distance symbol of a token. -/
def distSymbol : Token → Option Nat
  | .literal _ => none
  | .backref _ distance => some (distIndex distance)

/-- How often each of the symbols `0 .. n−1` occurs. -/
def frequencies (n : Nat) (symbols : List Nat) : List Nat := (List.range n).map fun y => symbols.countP (· == y)

/-- `LLF[0..285]` (R203): the tokens' symbols and one end-of-block. -/
def litLenFreq (toks : List Token) : List Nat := frequencies nLitLen (toks.map litLenSymbol ++ [256])

/-- `DF[0..29]` (R203). -/
def distFreq (toks : List Token) : List Nat := frequencies nDist (toks.filterMap distSymbol)

/-! ## Costs (R204, R205, R210) -/

/-- The bits of one token under a pair of length tables (R205). -/
def tokenCost (ll dl : List Nat) : Token → Nat
  | .literal b => ll.getD b.toNat 0
  | .backref length distance =>
    ll.getD (257 + lenIndex length) 0 + lenExtra.getD (lenIndex length) 0 +
      dl.getD (distIndex distance) 0 + distExtra.getD (distIndex distance) 0

/-- `tokbits(ll, dl)` (R205). -/
def tokBits (ll dl : List Nat) (toks : List Token) : Nat := (toks.map (tokenCost ll dl)).sum + ll.getD 256 0

/-- The padding a stored block's header would be followed by at output position `pos` (R204). -/
def storedPad (pos : Nat) : Nat := (8 - (pos + 3) % 8) % 8

/-- `stored_cost` (R204). -/
def storedCost (pos blkBytes : Nat) : Nat := 3 + storedPad pos + 32 + 8 * blkBytes

/-- `fixed_cost` (R205). -/
def fixedCost (toks : List Token) : Nat := 3 + tokBits fixedLitLens fixedDistLens toks

/-- The zero part of `RLE` (R207) for a run of `run` zeros. -/
def rleZeros : (fuel run : Nat) → List (Nat × Nat)
  | 0, _ => []
  | fuel + 1, run =>
    if 11 ≤ run then (18, min run 138 - 11) :: rleZeros fuel (run - min run 138)
    else if 3 ≤ run then [(17, run - 3)]
    else List.replicate run (0, 0)

/-- The non-zero part of `RLE` (R207) after the value itself was output, for `run` more equal values `v`. -/
def rleRepeats (v : Nat) : (fuel run : Nat) → List (Nat × Nat)
  | 0, _ => []
  | fuel + 1, run =>
    if 3 ≤ run then (16, min run 6 - 3) :: rleRepeats v fuel (run - min run 6)
    else List.replicate run (v, 0)

/-- The items of one run (R207). -/
def rleRun (v run : Nat) : List (Nat × Nat) :=
  if v = 0 then rleZeros (run + 1) run else (v, 0) :: rleRepeats v run (run - 1)

/-- `RLE` (R207), run by run. -/
def rleLoop : (fuel : Nat) → List Nat → List (Nat × Nat)
  | 0, _ => []
  | _, [] => []
  | fuel + 1, v :: rest =>
    let same := (rest.takeWhile (· == v)).length
    rleRun v (same + 1) ++ rleLoop fuel (rest.drop same)

/-- `RLE(L)` (R207): code-length items `(symbol, extra)`; the extra of a symbol without extra bits is 0. -/
def rle (lens : List Nat) : List (Nat × Nat) := rleLoop lens.length lens

/-- One more than the largest index whose length is not 0, 0 if there is none. -/
def usedCount (lens : List Nat) : Nat := maxUsedLen 1 lens

/-- The dynamic trees and what is sent of them (R206, R207, R209). -/
structure DynPlan where
  ll : List Nat
  dl : List Nat
  nlen : Nat
  ndist : Nat
  cls : List (Nat × Nat)
  cl : List Nat
  ncode : Nat
  deriving DecidableEq, Repr

/-- The dynamic plan of a block's tokens (R206, R207, R209). -/
def dynPlan (toks : List Token) : DynPlan :=
  let ll := buildLengths (litLenFreq toks) maxCodeLen
  let dl := buildLengths (distFreq toks) maxCodeLen
  let nlen := max 257 (usedCount ll)
  let ndist := max 1 (usedCount dl)
  let cls := rle (ll.take nlen) ++ rle (dl.take ndist)
  let cl := buildLengths (frequencies nCl (cls.map (·.1))) maxClCodeLen
  { ll := ll, dl := dl, nlen := nlen, ndist := ndist, cls := cls, cl := cl
    ncode := max 4 (usedCount (clOrder.map fun y => cl.getD y 0)) }

/-- `dyn_cost` (R210). -/
def dynCost (d : DynPlan) (toks : List Token) : Nat :=
  3 + 14 + 3 * d.ncode + (d.cls.map fun e => d.cl.getD e.1 0 + clExtra e.1).sum + tokBits d.ll d.dl toks

/-- The block type chosen (R211): 0 stored, 1 fixed, 2 dynamic. -/
def chooseType (stored fixed dyn : Nat) : Nat :=
  if stored ≤ fixed ∧ stored ≤ dyn then 0 else if fixed ≤ dyn then 1 else 2

/-! ## Emission: the bits of a block, first stream bit first

`PutBits(v, n)` appends `bitsLSB v n`, `PutCode(c, l)` appends `bitsMSB c l` (R120, R121). -/

/-- One symbol under a length table and its codes. -/
def codeBits (lens codes : List Nat) (sym : Nat) : List Bool := bitsMSB (codes.getD sym 0) (lens.getD sym 0)

/-- The bits of one token (R216). -/
def tokenBits (ll llcode dl dcode : List Nat) : Token → List Bool
  | .literal b => codeBits ll llcode b.toNat
  | .backref length distance =>
    codeBits ll llcode (257 + lenIndex length) ++
      bitsLSB (length - lenBase.getD (lenIndex length) 0) (lenExtra.getD (lenIndex length) 0) ++
      codeBits dl dcode (distIndex distance) ++
      bitsLSB (distance - distBase.getD (distIndex distance) 0) (distExtra.getD (distIndex distance) 0)

/-- `EmitTokens(ll, llcode, dl, dcode)` (R216). -/
def tokensBits (ll llcode dl dcode : List Nat) (toks : List Token) : List Bool :=
  toks.flatMap (tokenBits ll llcode dl dcode) ++ codeBits ll llcode 256

/-- The header of a block (R202): `PutBits(final, 1); PutBits(type, 2)`. -/
def headerBits (final : Bool) (type : Nat) : List Bool := bitsLSB final.toNat 1 ++ bitsLSB type 2

/-- The 16-bit length and its one's complement (R84, R208). -/
def storedLenBits (n : Nat) : List Bool := bitsLSB n 16 ++ bitsLSB (0xFFFF - n) 16

/-- The stored payload at output position `pos` (R208): padding, `LEN`, `NLEN`, the raw bytes. -/
def storedBits (pos : Nat) (raw : List Byte) : List Bool :=
  bitsLSB 0 (storedPad pos) ++ storedLenBits raw.length ++ bytesBits raw

/-- The fixed payload (R212). -/
def fixedBits (toks : List Token) : List Bool :=
  tokensBits fixedLitLens (assignCanonicalCodes fixedLitLens) fixedDistLens (assignCanonicalCodes fixedDistLens) toks

/-- The dynamic header of a plan (R213): the counts, the code-length-code lengths, the coded lengths. -/
def dynHeaderBits (d : DynPlan) : List Bool :=
  bitsLSB (d.nlen - 257) 5 ++ bitsLSB (d.ndist - 1) 5 ++ bitsLSB (d.ncode - 4) 4 ++
    (clOrder.take d.ncode).flatMap (fun y => bitsLSB (d.cl.getD y 0) 3) ++
    d.cls.flatMap fun e => codeBits d.cl (assignCanonicalCodes d.cl) e.1 ++ bitsLSB e.2 (clExtra e.1)

/-- The dynamic payload (R213). -/
def dynBits (d : DynPlan) (toks : List Token) : List Bool :=
  dynHeaderBits d ++ tokensBits d.ll (assignCanonicalCodes d.ll) d.dl (assignCanonicalCodes d.dl) toks

/-- The block's raw bytes (R201, R208): stream positions `WTOTAL − BLK_BYTES .. WTOTAL − 1`, from the window. -/
def blockBytes (s : State) : List Byte :=
  (List.range s.blkBytes).map fun k => winRead s.win ((s.wtotal - s.blkBytes + k) % wsize s.params)

/-- The type that Deciding picks for the current block (R202 to R211). -/
def blockType (s : State) : Nat :=
  chooseType (storedCost s.bitposOut s.blkBytes) (fixedCost s.tok) (dynCost (dynPlan s.tok) s.tok)

/-- The payload of the current block as a block of a type (R208, R212, R213). -/
def payloadBits (s : State) (type : Nat) : List Bool :=
  if type = 0 then storedBits s.bitposOut (blockBytes s)
  else if type = 1 then fixedBits s.tok
  else dynBits (dynPlan s.tok) s.tok

/-- The empty token buffer that Emitting leaves (R202). -/
def closeBlock (s : State) : State := { s with tok := [], blkBytes := 0, estate := .accumulating }

/-- `EmitBlock(final)` (R202): Deciding, Emitting, back to Accumulating. -/
def emitBlock (final : Bool) (s : State) : State :=
  let deciding := { s with estate := .deciding }
  let type := blockType deciding
  let emitting := { deciding with estate := .emitting }
  let written := putBitList (headerBits final type ++ payloadBits emitting type) emitting
  closeBlock { written with finalSent := s.finalSent || final }

end Sys2Proof.Machine
end

