-- ==== Sys2Proof/Machine/Tokeniser.lean ====
section
/-! DEFINITION. Token acceptance and the tokeniser loop (spec 42_matcher R153, R158, R160). -/

namespace Sys2Proof.Machine

/-- The token at `p = WTOTAL` (R158): the match found, else the literal. -/
def nextToken (s : State) : Token :=
  match findMatch s s.wtotal s.effort (min maxMatch s.la.length) with
  | some m => .backref m.len m.dist
  | none => .literal (s.la.getD 0 0)

/-- How many input bytes a token covers (R158). -/
def tokenSpan : Token → Nat
  | .literal _ => 1
  | .backref length _ => length

/-- The insertions of an accepted token (R152, R153, R158): positions `p .. p + n − 1` in increasing order, those
whose three bytes are known. -/
def insertRange (p : Nat) : (n : Nat) → State → State
  | 0, s => s
  | n + 1, s => insertRange (p + 1) n (if p + 2 < s.wtotal + s.la.length then insertPos p s else s)

/-- The bytes of an accepted token move from the lookahead into the window and the block (R158). -/
def consumeToken (n : Nat) (s : State) : State :=
  let w := windowAppendAll (s.la.take n) s
  { w with la := s.la.drop n, blkBytes := s.blkBytes + n }

/-- Accepting one token (R158), `|LA| ≥ 1`. -/
def acceptToken (s : State) : State :=
  let t := nextToken s
  let recorded := { s with tok := s.tok ++ [t] }
  let inserted := insertRange s.wtotal (tokenSpan t) recorded
  let taken := consumeToken (tokenSpan t) inserted
  if wsize s.params - maxMatch < taken.blkBytes then emitBlock false taken else taken

/-- The loop of `Tokenise` (R160); every token takes at least one byte of `LA`, so `|LA|` passes suffice. -/
def tokeniseLoop (finishing : Bool) : (fuel : Nat) → State → State
  | 0, s => s
  | fuel + 1, s =>
    if s.la.length = 0 ∨ (finishing = false ∧ s.la.length < lookaheadMin) then s
    else tokeniseLoop finishing fuel (acceptToken s)

/-- `Tokenise(finishing)` (R160). -/
def tokenise (finishing : Bool) (s : State) : State := tokeniseLoop finishing s.la.length s

end Sys2Proof.Machine
end

