-- ==== Sys2Proof/Machine/Commands.lean ====
section
/-! DEFINITION. The host commands (spec 47_commands R290 to R299): phase check, body, `PENDING`. A command is one
atomic transition (00_scope R10). -/

namespace Sys2Proof.Machine

/-- `BadCommandError` (R291, R298), a fault of the command itself. -/
def badCommand (c : Cause) (s : State) : State := endCommand (raise c s)

/-- `RESET` (R292), legal in every phase. -/
def execReset (s : State) : Host.Outcome State Fault Refusal := .next (endCommand (resetState s))

/-- Starting a stream in a mode (R293, R294). -/
def openStream (m : Mode) (s : State) : State := { streamReset s with mode := m, phase := .active }

/-- `CINIT` (R293), legal in every phase. -/
def execCinit (s : State) : Host.Outcome State Fault Refusal :=
  .next (endCommand (if levelMax < s.level.toNat then raise .invalidLevel (openStream .compress s)
    else { openStream .compress s with effort := s.params.effortTable.getD s.level.toNat 0 }))

/-- `DINIT` (R294), legal in every phase. -/
def execDinit (s : State) : Host.Outcome State Fault Refusal := .next (endCommand (openStream .decompress s))

/-- FEED of an open compress stream (R295). -/
def feedCompress (chunk : List Byte) (s : State) : State :=
  tokenise false { s with la := s.la ++ chunk, totalIn := s.totalIn + chunk.length }

/-- Input acceptance of an open decompress stream (R123, R295). -/
def acceptInput (chunk : List Byte) (s : State) : State :=
  { s with inq := s.inq ++ bytesBits chunk, totalIn := s.totalIn + chunk.length }

/-- The end of FEED in decompress mode (R295, R299): a stream that has ended makes `PHASE` DONE, and whole bytes
beyond it set `TRAIL`. A fault has already set `PHASE`. -/
def settleDecode (s : State) : State :=
  if s.phase = .active ∧ s.dstate = .done then
    { s with phase := .done, trail := s.trail || decide (8 ≤ s.inq.length) }
  else s

/-- FEED of an open decompress stream (R295). -/
def feedDecompress (chunk : List Byte) (s : State) : Host.Outcome State Fault Refusal :=
  match decodeStream (acceptInput chunk s) with
  | .next t => .next (endCommand (settleDecode t))
  | .fault r => .fault r
  | .refused r => .refused r

/-- FEED after the end of the stream (R299): the chunk is discarded. -/
def feedDone (chunk : List Byte) (s : State) : State := { s with trail := s.trail || !chunk.isEmpty }

/-- `FEED` (R291, R295, R299). -/
def execFeed (chunk : List Byte) (s : State) : Host.Outcome State Fault Refusal :=
  match s.phase with
  | .idle => .next (badCommand .wrongPhase s)
  | .active =>
    match s.mode with
    | .none => .next (badCommand .wrongPhase s)
    | .compress => .next (endCommand (feedCompress chunk s))
    | .decompress => feedDecompress chunk s
  | .done => .next (endCommand (feedDone chunk s))
  | .finished => .next (badCommand .wrongPhase s)
  | .fault => .next s

/-- The empty non-final stored block that FLUSH writes (R296). -/
def syncMarker (s : State) : State :=
  putBits 0xFFFF 16 (putBits 0x0000 16 (alignOut (putBits 0 2 (putBits 0 1 s))))

/-- FLUSH of an open compress stream (R296). -/
def flushCompress (s : State) : State :=
  let t := tokenise true s
  syncMarker (if 0 < t.ntok then emitBlock false t else t)

/-- `FLUSH` (R291, R296). -/
def execFlush (s : State) : Host.Outcome State Fault Refusal :=
  match s.phase with
  | .idle => .next (badCommand .wrongPhase s)
  | .active =>
    match s.mode with
    | .none => .next (badCommand .wrongPhase s)
    | .compress => .next (endCommand (flushCompress s))
    | .decompress => .next (endCommand s)
  | .done => .next (endCommand s)
  | .finished => .next (badCommand .wrongPhase s)
  | .fault => .next s

/-- FINISH of an open compress stream (R297). -/
def finishCompress (s : State) : State :=
  { alignOut (emitBlock true (tokenise true s)) with phase := .finished }

/-- FINISH of a decompress stream that has ended (R285, R297). -/
def finishDone (s : State) : State :=
  if s.verify ∧ adler s ≠ s.ckExpect then raise .checksumMismatch s else { s with phase := .finished }

/-- `FINISH` (R291, R297). -/
def execFinish (s : State) : Host.Outcome State Fault Refusal :=
  match s.phase with
  | .idle => .next (badCommand .wrongPhase s)
  | .active =>
    match s.mode with
    | .none => .next (badCommand .wrongPhase s)
    | .compress => .next (endCommand (finishCompress s))
    | .decompress => .next (endCommand (raise .inputTooShort s))
  | .done => .next (endCommand (finishDone s))
  | .finished => .next (badCommand .wrongPhase s)
  | .fault => .next s

/-- A reserved command code (R291, R298): `BadCommandError(RESERVED_CODE)`, ignored in FAULT. -/
def reservedCommand (s : State) : State := if s.phase = .fault then s else badCommand .reservedCode s

/-- Reserved command code 0x00 (R298). -/
def execCmdReserved00 (s : State) : Host.Outcome State Fault Refusal := .next (reservedCommand s)

/-- Reserved command code 0x07 (R298). -/
def execCmdReserved07 (s : State) : Host.Outcome State Fault Refusal := .next (reservedCommand s)

/-- Reserved command codes 0x08..0x0F (R298). -/
def execCmdReserved080F (_code : Byte) (s : State) : Host.Outcome State Fault Refusal := .next (reservedCommand s)

/-- Reserved command codes 0x10..0x1F (R298). -/
def execCmdReserved101F (_code : Byte) (s : State) : Host.Outcome State Fault Refusal := .next (reservedCommand s)

/-- Reserved command codes 0x20..0x3F (R298). -/
def execCmdReserved203F (_code : Byte) (s : State) : Host.Outcome State Fault Refusal := .next (reservedCommand s)

/-- Reserved command codes 0x40..0x7F (R298). -/
def execCmdReserved407F (_code : Byte) (s : State) : Host.Outcome State Fault Refusal := .next (reservedCommand s)

/-- Reserved command codes 0x80..0xFF (R298). -/
def execCmdReserved80FF (_code : Byte) (s : State) : Host.Outcome State Fault Refusal := .next (reservedCommand s)

end Sys2Proof.Machine
end

