-- ==== Sys2Proof/Machine/Access.lean ====
section
/-! DEFINITION. The host's accesses (spec 20_memory R68, 47_commands R290, R303, 70_reset R350), and where the next
instruction of a given format is put so that the next step runs it (log 11). -/

namespace Sys2Proof.Machine

/-- What a host access asks of the machine. -/
inductive AccessEffect where
  /-- A command of `CMD` is to be executed. -/
  | command (i : Instr)
  /-- The access is complete with this state. -/
  | done (s : State)
  /-- The command code is no code (R81 leaves none). -/
  | noSuchCommand (code : Nat)
  deriving DecidableEq, Repr

/-- The command that a write to `CMD` stands for (R81): bits [31:8] of the written word are ignored. -/
def fetchCommand (value : Word32) (chunk : List Byte) : AccessEffect :=
  match decode ⟨.cmd, value.toNat % 2 ^ 8, 0, chunk⟩ with
  | .ok i => .command i
  | .error _ => .noSuchCommand (value.toNat % 2 ^ 8)

/-- Taking one byte from the output stream (R68): it is delivered once; from an empty stream nothing is taken
(log 8). -/
def takeByte (s : State) : State :=
  match s.out with
  | [] => s
  | b :: rest => { s with out := rest, rdata := b.setWidth 32 }

/-- The effect of one host access on a state it has already left the queue of. -/
def accessEffect (a : HostAccess) (s : State) : AccessEffect :=
  match a with
  | .write reg value chunk => if reg = 0 then fetchCommand value chunk else .done (writeReg reg value s)
  | .read reg => .done { s with rdata := readReg reg s }
  | .take => .done (takeByte s)
  | .hardReset => .done (resetState s)

/-- A decompress stream is open with `DSTATE` as given and the given bits as its unread input. -/
def atElement (d : DState) (bits : List Bool) (s : State) : State :=
  { s with
    hostq := []
    mode := .decompress
    phase := .active
    dstate := d
    inq := bits
    cursor := 0
    pendLen := none }

/-- Puts an encoded instruction, every operand bit 0, where the step fetches its next instruction (log 11): a command
as the host's next access; a header as the next bits of the input; a symbol as its fixed code (R94, R95) or, for a
code-length symbol, as its code in a code that gives all 19 symbols 5 bits, with that code's table current. The zero
bits behind a literal/length symbol are the distance half that a length symbol needs to run. -/
def placeNext (f : Format) (code : Nat) (s : State) : State :=
  match f with
  | .cmd => { s with hostq := .write 0 (.ofNat 32 code) [] :: s.hostq }
  | .blockHdr => atElement .hdr (bitsLSB code 3) s
  | .litlenSym =>
    { atElement .sym (symbolBits fixedLitLens .litlenSym code 0 ++ List.replicate 18 false) s with
      lt := fixedLT
      dt := fixedDT }
  | .distSym =>
    { atElement .sym (symbolBits fixedDistLens .distSym code 0) s with dt := fixedDT, pendLen := some minMatch }
  | .clSym =>
    { atElement .dynLens (symbolBits (List.replicate 19 5) .clSym code 0) s with
      clt := rawTable (List.replicate 19 5) }

end Sys2Proof.Machine
end

