-- ==== Sys2Proof/Machine/Dispatch.lean ====
section
/-! DEFINITION. The dispatch: one arm per row of the opcode table, each one call of the row's meaning. -/

namespace Sys2Proof.Machine

def exec (i : Instr) (s : State) : Host.Outcome State Fault Refusal :=
  match i with
  | .reset => Sys2Proof.Machine.execReset s
  | .cinit => Sys2Proof.Machine.execCinit s
  | .dinit => Sys2Proof.Machine.execDinit s
  | .feed chunk => Sys2Proof.Machine.execFeed chunk s
  | .flush => Sys2Proof.Machine.execFlush s
  | .finish => Sys2Proof.Machine.execFinish s
  | .cmdReserved00 => Sys2Proof.Machine.execCmdReserved00 s
  | .cmdReserved07 => Sys2Proof.Machine.execCmdReserved07 s
  | .cmdReserved080F code => Sys2Proof.Machine.execCmdReserved080F code s
  | .cmdReserved101F code => Sys2Proof.Machine.execCmdReserved101F code s
  | .cmdReserved203F code => Sys2Proof.Machine.execCmdReserved203F code s
  | .cmdReserved407F code => Sys2Proof.Machine.execCmdReserved407F code s
  | .cmdReserved80FF code => Sys2Proof.Machine.execCmdReserved80FF code s
  | .blockStored final => Sys2Proof.Machine.execBlockStored final s
  | .blockFixed final => Sys2Proof.Machine.execBlockFixed final s
  | .blockDynamic final => Sys2Proof.Machine.execBlockDynamic final s
  | .blockReserved final => Sys2Proof.Machine.execBlockReserved final s
  | .lit000_127 byte => Sys2Proof.Machine.execLit000_127 byte s
  | .lit128_143 byte => Sys2Proof.Machine.execLit128_143 byte s
  | .lit144_159 byte => Sys2Proof.Machine.execLit144_159 byte s
  | .lit160_191 byte => Sys2Proof.Machine.execLit160_191 byte s
  | .lit192_255 byte => Sys2Proof.Machine.execLit192_255 byte s
  | .eob => Sys2Proof.Machine.execEob s
  | .len257 extra => Sys2Proof.Machine.execLen257 extra s
  | .len258 extra => Sys2Proof.Machine.execLen258 extra s
  | .len259 extra => Sys2Proof.Machine.execLen259 extra s
  | .len260 extra => Sys2Proof.Machine.execLen260 extra s
  | .len261 extra => Sys2Proof.Machine.execLen261 extra s
  | .len262 extra => Sys2Proof.Machine.execLen262 extra s
  | .len263 extra => Sys2Proof.Machine.execLen263 extra s
  | .len264 extra => Sys2Proof.Machine.execLen264 extra s
  | .len265 extra => Sys2Proof.Machine.execLen265 extra s
  | .len266 extra => Sys2Proof.Machine.execLen266 extra s
  | .len267 extra => Sys2Proof.Machine.execLen267 extra s
  | .len268 extra => Sys2Proof.Machine.execLen268 extra s
  | .len269 extra => Sys2Proof.Machine.execLen269 extra s
  | .len270 extra => Sys2Proof.Machine.execLen270 extra s
  | .len271 extra => Sys2Proof.Machine.execLen271 extra s
  | .len272 extra => Sys2Proof.Machine.execLen272 extra s
  | .len273 extra => Sys2Proof.Machine.execLen273 extra s
  | .len274 extra => Sys2Proof.Machine.execLen274 extra s
  | .len275 extra => Sys2Proof.Machine.execLen275 extra s
  | .len276 extra => Sys2Proof.Machine.execLen276 extra s
  | .len277 extra => Sys2Proof.Machine.execLen277 extra s
  | .len278 extra => Sys2Proof.Machine.execLen278 extra s
  | .len279 extra => Sys2Proof.Machine.execLen279 extra s
  | .len280 extra => Sys2Proof.Machine.execLen280 extra s
  | .len281 extra => Sys2Proof.Machine.execLen281 extra s
  | .len282 extra => Sys2Proof.Machine.execLen282 extra s
  | .len283 extra => Sys2Proof.Machine.execLen283 extra s
  | .len284 extra => Sys2Proof.Machine.execLen284 extra s
  | .len285 extra => Sys2Proof.Machine.execLen285 extra s
  | .litlenInvalid286_287 low => Sys2Proof.Machine.execLitlenInvalid286_287 low s
  | .dist0 extra => Sys2Proof.Machine.execDist0 extra s
  | .dist1 extra => Sys2Proof.Machine.execDist1 extra s
  | .dist2 extra => Sys2Proof.Machine.execDist2 extra s
  | .dist3 extra => Sys2Proof.Machine.execDist3 extra s
  | .dist4 extra => Sys2Proof.Machine.execDist4 extra s
  | .dist5 extra => Sys2Proof.Machine.execDist5 extra s
  | .dist6 extra => Sys2Proof.Machine.execDist6 extra s
  | .dist7 extra => Sys2Proof.Machine.execDist7 extra s
  | .dist8 extra => Sys2Proof.Machine.execDist8 extra s
  | .dist9 extra => Sys2Proof.Machine.execDist9 extra s
  | .dist10 extra => Sys2Proof.Machine.execDist10 extra s
  | .dist11 extra => Sys2Proof.Machine.execDist11 extra s
  | .dist12 extra => Sys2Proof.Machine.execDist12 extra s
  | .dist13 extra => Sys2Proof.Machine.execDist13 extra s
  | .dist14 extra => Sys2Proof.Machine.execDist14 extra s
  | .dist15 extra => Sys2Proof.Machine.execDist15 extra s
  | .dist16 extra => Sys2Proof.Machine.execDist16 extra s
  | .dist17 extra => Sys2Proof.Machine.execDist17 extra s
  | .dist18 extra => Sys2Proof.Machine.execDist18 extra s
  | .dist19 extra => Sys2Proof.Machine.execDist19 extra s
  | .dist20 extra => Sys2Proof.Machine.execDist20 extra s
  | .dist21 extra => Sys2Proof.Machine.execDist21 extra s
  | .dist22 extra => Sys2Proof.Machine.execDist22 extra s
  | .dist23 extra => Sys2Proof.Machine.execDist23 extra s
  | .dist24 extra => Sys2Proof.Machine.execDist24 extra s
  | .dist25 extra => Sys2Proof.Machine.execDist25 extra s
  | .dist26 extra => Sys2Proof.Machine.execDist26 extra s
  | .dist27 extra => Sys2Proof.Machine.execDist27 extra s
  | .dist28 extra => Sys2Proof.Machine.execDist28 extra s
  | .dist29 extra => Sys2Proof.Machine.execDist29 extra s
  | .distInvalid30_31 low => Sys2Proof.Machine.execDistInvalid30_31 low s
  | .cl len => Sys2Proof.Machine.execCl len s
  | .rep16 extra => Sys2Proof.Machine.execRep16 extra s
  | .repz17 extra => Sys2Proof.Machine.execRepz17 extra s
  | .repz18 extra => Sys2Proof.Machine.execRepz18 extra s

end Sys2Proof.Machine
end

