-- ==== Sys2Proof/Machine/Step.lean ====
section
/-! DEFINITION. One step: the host's next access if one waits, else one transition of the decoder (logs 5, 6). -/

namespace Sys2Proof.Machine

/-- A step that executes a host access (R290): the access leaves the queue, then it has its effect. -/
def accessStep (a : HostAccess) (s : State) : Host.Outcome State Fault Refusal :=
  match accessEffect a s with
  | .command i => exec i s
  | .done t => .next t
  | .noSuchCommand code => .refused (.noSuchCommand code)

/-- A step with no access waiting: the next transition of the decoder if a stream is being decoded and its bits are
there, else nothing (R230, R333; log 6). -/
def streamStep (s : State) : Host.Outcome State Fault Refusal :=
  if decoding s then (decoderStep exec s).getD (.next (rollback s)) else .next s

/-- One step of the machine. -/
def step (s : State) : Host.Outcome State Fault Refusal :=
  match s.hostq with
  | a :: rest => accessStep a { s with hostq := rest }
  | [] => streamStep s

/-- The state with the opcode-table word `w` of `nbits` bits as the next instruction that `step` runs. -/
def State.withFetchWord (s : State) (nbits w : Nat) : State :=
  placeNext (tableFormat nbits) (tableCode nbits w) s

end Sys2Proof.Machine
end

