-- ==== Sys2Proof/Safety.lean ====
section
/-! DEFINITION. What counts as a safe state and a safe change of it, in the terms the statements use: the invariants
that the spec's rules give the state at every step boundary, and the frames of the shared operations. -/

namespace Sys2Proof.Machine

/-! ## Invariants -/

/-- No decoder step is half done: the tentative cursor is at the start of an element (R10, R230). -/
abbrev State.AtBoundary (s : State) : Prop := s.cursor = 0 ∧ s.pendLen = none

/-- The window invariants of R27. -/
abbrev State.WindowInv (s : State) : Prop :=
  s.wpos = s.wtotal % wsize s.params ∧ s.whave = min s.wtotal (wsize s.params)

/-- The output registers of R23: `BITPOS_OUT mod 8 = ONB`, and the bits of `OACC` from `ONB` on are 0. -/
abbrev State.SinkInv (s : State) : Prop :=
  s.bitposOut % 8 = s.onb.toNat ∧ s.oacc.toNat < 2 ^ s.onb.toNat

/-- `S1, S2 < 65521` (R32, R280). -/
abbrev State.ChecksumInv (s : State) : Prop := s.s1.toNat < adlerBase ∧ s.s2.toNat < adlerBase

/-- `PHASE = FAULT` if and only if a fault is recorded (R35). -/
abbrev State.FaultInv (s : State) : Prop := s.phase = .fault ↔ s.err.isSome = true

/-- Which phases a mode can be in (R35, R291): no stream means IDLE or FAULT, IDLE means no stream, DONE means a
decompress stream that has ended. -/
abbrev State.PhaseInv (s : State) : Prop :=
  (s.mode = .none → s.phase = .idle ∨ s.phase = .fault) ∧ (s.phase = .idle → s.mode = .none) ∧
    (s.phase = .done → s.mode = .decompress ∧ s.dstate = .done)

/-- What the output counter counts (R34): every byte of the window in decompress mode, every complete byte of the
output bit stream in compress mode. -/
abbrev State.CountInv (s : State) : Prop :=
  (s.mode = .decompress → s.totalOut = s.wtotal) ∧ (s.mode = .compress → s.totalOut = s.bitposOut / 8)

/-- A token the format can carry (R29, R5). -/
def tokenLegal (p : Params) (t : Token) : Bool :=
  match t with
  | .literal _ => true
  | .backref length distance =>
    decide (minMatch ≤ length) && decide (length ≤ maxMatch) && decide (1 ≤ distance) && decide (distance ≤ wsize p)

/-- The token buffer invariants of R201 at a step boundary, where the encoder is Accumulating: `BLK_BYTES` is the
bytes the tokens cover, the block is still short of its close threshold, and its raw bytes have been appended. -/
abbrev State.BlockInv (s : State) : Prop :=
  s.blkBytes = (s.tok.map tokenSpan).sum ∧ s.blkBytes ≤ wsize s.params - maxMatch ∧ s.blkBytes ≤ s.wtotal ∧
    s.estate = .accumulating ∧ ∀ t ∈ s.tok, tokenLegal s.params t = true

/-- Every position in `HEAD` and `PREV` is a position already in the window's history (R28, R152). -/
abbrev State.ChainInv (s : State) : Prop :=
  (∀ e ∈ s.head, e.2 < s.wtotal) ∧ ∀ e ∈ s.prev, e.2 < s.wtotal

/-- The decode tables hold only symbols of their alphabets (R100, R185). -/
abbrev State.TablesInv (s : State) : Prop :=
  (∀ y ∈ s.clt.sorted, y < nCl) ∧ (∀ y ∈ s.lt.sorted, y < 288) ∧ ∀ y ∈ s.dt.sorted, y < 32

/-- The registers of a dynamic header (R31, R240, R242, R246): the counts never exceed the alphabets; while a header
is being read they lie in the ranges of R31, and more code lengths are still to come. -/
abbrev State.HeaderInv (s : State) : Prop :=
  s.nlen.toNat ≤ nLitLen ∧ s.ndist.toNat ≤ nDist ∧
    (s.dstate = .dynCl → 257 ≤ s.nlen.toNat ∧ 1 ≤ s.ndist.toNat ∧ 4 ≤ s.ncode.toNat ∧ s.ncode.toNat ≤ nCl ∧
      s.idx.toNat < s.ncode.toNat) ∧
    (s.dstate = .dynLens → 257 ≤ s.nlen.toNat ∧ 1 ≤ s.ndist.toNat ∧ s.nl < s.nlen.toNat + s.ndist.toNat)

/-- The output cap in decompress mode (R34, R236): what has been produced, and what a stored block has left to
produce, fits; a stored block being copied has bytes left (R233, R234). -/
abbrev State.CapInv (s : State) : Prop :=
  s.mode = .decompress → s.totalOut ≤ s.outLimit.toNat ∧
    (s.dstate = .storedCopy → 0 < s.rem.toNat ∧ s.totalOut + s.rem.toNat ≤ s.outLimit.toNat)

/-- All invariants that hold from reset on whatever the host does. -/
abbrev State.Safe (s : State) : Prop :=
  s.params.Legal ∧ s.MemWF ∧ s.WindowInv ∧ s.SinkInv ∧ s.ChecksumInv ∧ s.FaultInv ∧ s.PhaseInv ∧ s.CountInv ∧
    s.BlockInv ∧ s.ChainInv ∧ s.TablesInv ∧ s.HeaderInv

/-! ## Terms the statements use -/

/-- The output bit stream since the stream started, first bit first: the complete bytes, then the bits of the byte
not yet complete (R8, R23). -/
def outBits (s : State) : List Bool := bytesBits s.out ++ bitsLSB s.oacc.toNat s.onb.toNat

/-- The two sums of R280 after a byte sequence, from given sums (R281). -/
def adlerSums (bs : List Byte) (sums : Nat × Nat) : Nat × Nat :=
  bs.foldl (fun a b => ((a.1 + b.toNat) % 65521, (a.2 + (a.1 + b.toNat) % 65521) % 65521)) sums

/-- Byte `k` of the result of `Window.copy(distance, ·)`: "the last `distance` bytes of history repeated
periodically" (R142). -/
def copiedByte (s : State) (distance k : Nat) : Byte :=
  winRead s.win ((s.wpos + wsize s.params - (distance - k % distance)) % wsize s.params)

/-- The window and the checksum of `t` are those of `s` after the bytes `bs` were appended in order (R140, R141):
the position and the counts advance, each byte stands at its ring address unless a later one of `bs` has overwritten
it, every other ring address reads as before, and the checksum covers the bytes. -/
def WindowHolds (bs : List Byte) (s t : State) : Prop :=
  t.wpos = (s.wpos + bs.length) % wsize s.params ∧
    t.whave = min (s.whave + bs.length) (wsize s.params) ∧
    t.wtotal = s.wtotal + bs.length ∧
    (t.s1.toNat, t.s2.toNat) = adlerSums bs (s.s1.toNat, s.s2.toNat) ∧
    (∀ k b, bs[k]? = some b → bs.length ≤ k + wsize s.params →
      winRead t.win ((s.wpos + k) % wsize s.params) = b) ∧
    ∀ a, (∀ k < bs.length, (s.wpos + k) % wsize s.params ≠ a) → winRead t.win a = winRead s.win a

/-- The candidates that `findMatch` examines at position `p`, in the order of the chain, `budget` at most (R154). -/
def candidates (s : State) (p : Nat) : (budget : Nat) → (q : Option Nat) → List Nat
  | 0, _ => []
  | _ + 1, none => []
  | n + 1, some q =>
    if p - q ≤ wsize s.params then q :: candidates s p n (prevRead s (q % wsize s.params)) else []

/-- What a list of code-length items stands for (R88): the code lengths, appended to those already known. -/
def expandItems : List (Nat × Nat) → List Nat → List Nat
  | [], known => known
  | (sym, x) :: items, known =>
    expandItems items (known ++
      (if sym ≤ 15 then [sym]
       else if sym = 16 then List.replicate (3 + x) (known.getLast?.getD 0)
       else if sym = 17 then List.replicate (3 + x) 0
       else List.replicate (11 + x) 0))

/-- Executes instructions one after another, as long as each answers a next state. -/
def execAll : List Instr → State → Host.Outcome State Fault Refusal
  | [], s => .next s
  | i :: is, s =>
    match exec i s with
    | .next t => execAll is t
    | .fault r => .fault r
    | .refused r => .refused r

/-! ## Frames -/

/-- Only the window, the checksum and the output stream may differ: what `Window.append` writes (R140). -/
abbrev WindowFrame (s t : State) : Prop :=
  t = { s with
    win := t.win, wpos := t.wpos, whave := t.whave, wtotal := t.wtotal
    s1 := t.s1, s2 := t.s2, out := t.out, totalOut := t.totalOut }

/-- Only the output side of Bit I/O and the output stream may differ: what `PutBits` writes (R120). -/
abbrev OutputFrame (s t : State) : Prop :=
  t = { s with
    oacc := t.oacc, onb := t.onb, bitposOut := t.bitposOut, out := t.out, totalOut := t.totalOut }

/-- Only the consumption of the input may differ: what the end of a decoder step writes (R24, R230). -/
abbrev InputFrame (s t : State) : Prop :=
  t = { s with inq := t.inq, bitposIn := t.bitposIn, cursor := t.cursor, pendLen := t.pendLen }

/-- Only what a compress command writes may differ (R22, R200): the lookahead, the window, the checksum, the matcher,
the tokens, the output side of Bit I/O, the output stream, the counters and `STATUS`. -/
abbrev CompressFrame (s t : State) : Prop :=
  t = { s with
    la := t.la, win := t.win, wpos := t.wpos, whave := t.whave, wtotal := t.wtotal, s1 := t.s1, s2 := t.s2
    head := t.head, prev := t.prev, tok := t.tok, blkBytes := t.blkBytes, estate := t.estate
    finalSent := t.finalSent, oacc := t.oacc, onb := t.onb, bitposOut := t.bitposOut, out := t.out
    totalOut := t.totalOut, totalIn := t.totalIn, phase := t.phase, pending := t.pending }

/-- Only what a decompress command writes may differ (R22, R230, R325): the input side of Bit I/O, the decoder's
registers and tables, the window, the checksum, the output stream, the counters, `STATUS` and the fault record. -/
abbrev DecompressFrame (s t : State) : Prop :=
  t = { s with
    inq := t.inq, bitposIn := t.bitposIn, cursor := t.cursor, pendLen := t.pendLen, dstate := t.dstate
    bfinal := t.bfinal, rem := t.rem, nlen := t.nlen, ndist := t.ndist, ncode := t.ncode, idx := t.idx
    cll := t.cll, lens := t.lens, clt := t.clt, lt := t.lt, dt := t.dt, win := t.win, wpos := t.wpos
    whave := t.whave, wtotal := t.wtotal, s1 := t.s1, s2 := t.s2, out := t.out, totalOut := t.totalOut
    totalIn := t.totalIn, phase := t.phase, trail := t.trail, pending := t.pending, err := t.err
    errPos := t.errPos }

/-- The four configuration registers are the same (R30). -/
abbrev SameConfig (s t : State) : Prop :=
  t.level = s.level ∧ t.outLimit = s.outLimit ∧ t.verify = s.verify ∧ t.ckExpect = s.ckExpect

end Sys2Proof.Machine
end

