-- ==== Sys2Proof/Certificates/Slice0/Obligations.lean ====
section
/-! DEFINITION. The statements for the provers: what the spec's numbered rules say, about this model. A docstring names
the rule; the words "log <n>" name the log entry of a choice that is the model's own. -/

open Sys2Proof Sys2Proof.Machine

/-! ## Decoding and encoding -/

/-- Decode and encode agree (R81, R82, R88, R90 to R93): every well-formed instruction, with every operand at every
value its encoding admits, is what the decoder reads from its encoding. -/
def Obligations.DecodeInvertsEncode : Prop :=
  ∀ i : Instr, i.wellFormed = true → decode (encode i) = .ok i

/-- R100: the formats have 256, 8, 288, 32 and 19 codes; each of them is an instruction, every other number is
refused; and what the decoder reads is well-formed and encodes to the same format, code and operand field. -/
def Obligations.EveryCodePointDecodes : Prop :=
  ∀ f : Format,
    (∀ code, (∃ i, decode ⟨f, code, 0, []⟩ = .ok i) ↔
      code < (match f with | .cmd => 256 | .blockHdr => 8 | .litlenSym => 288 | .distSym => 32 | .clSym => 19)) ∧
    ∀ code extra chunk i, decode ⟨f, code, extra, chunk⟩ = .ok i →
      i.wellFormed = true ∧ (encode i).format = f ∧ (encode i).code = code ∧
        (extraWidth f code ≠ 0 → (encode i).extra = extra ∧ extra < 2 ^ extraWidth f code) ∧
        (f = .cmd → code = 4 → (encode i).chunk = chunk)

/-- A few words written out from the tables of R81, R82, R88, R91 and R93 decode to the instructions they stand for. -/
def Obligations.WrittenWordsDecode : Prop :=
  decode ⟨.cmd, 0x02, 0, []⟩ = .ok .cinit ∧
    decode ⟨.cmd, 0x04, 0, [0x4B, 0x04]⟩ = .ok (.feed [0x4B, 0x04]) ∧
    decode ⟨.cmd, 0x9A, 0, []⟩ = .ok (.cmdReserved80FF 0x9A) ∧
    decode ⟨.blockHdr, 0b011, 0, []⟩ = .ok (.blockFixed true) ∧
    decode ⟨.litlenSym, 0x61, 0, []⟩ = .ok (.lit000_127 0x61) ∧
    decode ⟨.litlenSym, 274, 7, []⟩ = .ok (.len274 7) ∧
    decode ⟨.distSym, 29, 0x1FFF, []⟩ = .ok (.dist29 0x1FFF) ∧
    decode ⟨.clSym, 18, 86, []⟩ = .ok (.repz18 86)

/-- R94 and R95: the lengths and the codes of the two fixed codes, symbol by symbol. -/
def Obligations.FixedCodesOfTheFormat : Prop :=
  fixedLitLens.length = 288 ∧ fixedDistLens.length = 32 ∧
    (∀ y < 288,
      fixedLitLens.getD y 0 = (if y ≤ 143 then 8 else if y ≤ 255 then 9 else if y ≤ 279 then 7 else 8) ∧
      (assignCanonicalCodes fixedLitLens).getD y 0 =
        (if y ≤ 143 then 0x30 + y else if y ≤ 255 then 0x190 + (y - 144)
         else if y ≤ 279 then y - 256 else 0xC0 + (y - 280))) ∧
    ∀ j < 32, fixedDistLens.getD j 0 = 5 ∧ (assignCanonicalCodes fixedDistLens).getD j 0 = j

/-- R61, R82, R85, R98, R126, R231: when the unread bits begin with the bits of a stream element, the fetch gives
exactly that instruction with its operands, and the cursor has passed exactly those bits. First, a symbol: its code
(most significant bit first) under any code whose table was built, then its extra field (least significant bit first).
The one form left out is `REP16` with no length before it, whose extra bits are not read (R330; log 23);
`CodeLengthItems` says what that one does. Second, a block header: its three-bit field. Third, the header bit by bit:
the final flag is the first stream bit, the low bit of the type the second, its high bit the third. -/
def Obligations.FetchReadsEncodedSymbol : Prop :=
  (∀ (lens : List Nat) (T : DecodeTable) (i : Instr) (s : State) (rest : List Bool),
    (∀ l ∈ lens, l ≤ 15) → buildDecodeTable lens = some T → i.wellFormed = true →
    (encode i).format ≠ .cmd → (encode i).format ≠ .blockHdr →
    lens.getD (encode i).code 0 ≠ 0 →
    ((encode i).format = .clSym → (encode i).code = 16 → s.lens ≠ []) →
    unread s = streamBits lens lens lens i ++ rest →
    fetchSymbol (encode i).format T s = .element i (advance (streamBits lens lens lens i).length s)) ∧
  (∀ (i : Instr) (s : State) (rest : List Bool), i.wellFormed = true → (encode i).format = .blockHdr →
    unread s = bitsLSB (encode i).code 3 ++ rest → fetchHeader s = .element i (advance 3 s)) ∧
  ∀ (final low high : Bool) (s : State) (rest : List Bool), unread s = final :: low :: high :: rest →
    fetchHeader s = .element
      (match high, low with
        | false, false => .blockStored final
        | false, true => .blockFixed final
        | true, false => .blockDynamic final
        | true, true => .blockReserved final) (advance 3 s)

/-! ## The Huffman Coder -/

/-- R175, R185, R126: for lengths that satisfy the Kraft inequality every canonical code fits in its length, no code
is a prefix of another symbol's, and `DecodeSym` on the decode table inverts the assignment, whatever bits follow. -/
def Obligations.CanonicalCodesDecodeBack : Prop :=
  ∀ lens : List Nat, (∀ l ∈ lens, l ≤ 15) → overSubscribed lens = false →
    ∀ y, lens.getD y 0 ≠ 0 →
      (assignCanonicalCodes lens).getD y 0 < 2 ^ lens.getD y 0 ∧
      (∀ z, z ≠ y → lens.getD z 0 ≠ 0 →
        ¬ bitsMSB ((assignCanonicalCodes lens).getD y 0) (lens.getD y 0) <+:
          bitsMSB ((assignCanonicalCodes lens).getD z 0) (lens.getD z 0)) ∧
      ∀ rest, decodeSym (rawTable lens)
        (bitsMSB ((assignCanonicalCodes lens).getD y 0) (lens.getD y 0) ++ rest) = .sym y (lens.getD y 0)

/-- R185, R186, R187: a table is refused exactly when `Σ 2^(15 − len)` over the coded symbols exceeds `2^15`; an
accepted table holds the counts, the largest length, and the coded symbols sorted by length, then by symbol. -/
def Obligations.DecodeTableIsSortedAndChecked : Prop :=
  ∀ lens : List Nat, (∀ l ∈ lens, l ≤ 15) →
    (buildDecodeTable lens = none ↔ 2 ^ 15 < ((lens.filter (· ≠ 0)).map fun l => 2 ^ (15 - l)).sum) ∧
    ∀ T, buildDecodeTable lens = some T →
      T.count.length = 15 ∧ (∀ l, 1 ≤ l → l ≤ 15 → T.count.getD (l - 1) 0 = lens.count l) ∧
      (∀ l ∈ lens, l ≤ T.maxlen) ∧ (T.maxlen ≠ 0 → T.maxlen ∈ lens) ∧
      (∀ y, y ∈ T.sorted ↔ y < lens.length ∧ lens.getD y 0 ≠ 0) ∧
      T.sorted.Pairwise fun y z =>
        lens.getD y 0 < lens.getD z 0 ∨ (lens.getD y 0 = lens.getD z 0 ∧ y < z)

/-- R176: for every frequency table the lengths are at most `maxLength` (15 or 7), 0 exactly for unused symbols, and
the Kraft sum is 1 for two or more used symbols, 1/2 for one, 0 for none. -/
def Obligations.BuiltLengthsMeetKraft : Prop :=
  ∀ (freq : List Nat) (M : Nat), M = 15 ∨ M = 7 → freq.countP (· != 0) ≤ 2 ^ M →
    (buildLengths freq M).length = freq.length ∧
    (∀ y < freq.length, (buildLengths freq M).getD y 0 ≤ M ∧
      ((buildLengths freq M).getD y 0 = 0 ↔ freq.getD y 0 = 0)) ∧
    (((buildLengths freq M).filter (· ≠ 0)).map fun l => 2 ^ (M - l)).sum =
      if freq.countP (· != 0) = 0 then 0 else if freq.countP (· != 0) = 1 then 2 ^ (M - 1) else 2 ^ M

/-! ## Bit I/O -/

/-- R120: `PutBits(v, n)` appends the low `n` bits of `v`, bit 0 first, to the output bit stream, counts them, hands
over exactly the bytes that became complete, and touches nothing else. -/
def Obligations.PutBitsAppends : Prop :=
  ∀ (v n : Nat) (s : State),
    outBits (putBits v n s) = outBits s ++ (List.range n).map v.testBit ∧
      (putBits v n s).bitposOut = s.bitposOut + n ∧
      s.out <+: (putBits v n s).out ∧
      (putBits v n s).totalOut + s.out.length = s.totalOut + (putBits v n s).out.length ∧
      OutputFrame s (putBits v n s) ∧ (s.SinkInv → (putBits v n s).SinkInv)

/-- R122: `AlignOut` appends zero bits up to the next byte boundary, none if it stands on one. -/
def Obligations.AlignOutPadsWithZeros : Prop :=
  ∀ s : State, s.SinkInv →
    (alignOut s).onb = 0 ∧ (alignOut s).oacc = 0 ∧ (alignOut s).bitposOut % 8 = 0 ∧
      outBits (alignOut s) = outBits s ++ List.replicate ((8 - s.bitposOut % 8) % 8) false ∧
      (s.onb = 0 → alignOut s = s) ∧ OutputFrame s (alignOut s)

/-! ## Window Manager and checksum -/

/-- R140, R141: appending bytes. Every byte goes to its ring address, the counts and the checksum follow, every other
ring address reads as before; in decompress mode, and only there, the bytes go to the output stream. -/
def Obligations.WindowAppendStoresBytes : Prop :=
  ∀ (bs : List Byte) (s : State), SparseSorted s.win → s.wpos < wsize s.params → s.whave ≤ wsize s.params →
    WindowHolds bs s (windowAppendAll bs s) ∧ WindowFrame s (windowAppendAll bs s) ∧
      (s.mode = .decompress →
        (windowAppendAll bs s).out = s.out ++ bs ∧ (windowAppendAll bs s).totalOut = s.totalOut + bs.length) ∧
      (s.mode ≠ .decompress →
        (windowAppendAll bs s).out = s.out ∧ (windowAppendAll bs s).totalOut = s.totalOut)

/-- R72, R142: the copy is byte by byte, so its result is the last `distance` bytes of history repeated periodically to
`length` bytes, for overlapping copies too and up to a distance of the whole window. -/
def Obligations.WindowCopyRepeatsHistory : Prop :=
  ∀ (distance length : Nat) (s : State), 1 ≤ distance → distance ≤ wsize s.params →
    SparseSorted s.win → s.wpos < wsize s.params →
    windowCopy distance length s = windowAppendAll ((List.range length).map (copiedByte s distance)) s

/-- R280: the byte goes into the first sum, the new first sum into the second, both modulo 65521; nothing else
changes. -/
def Obligations.AdlerUpdateAddsByte : Prop :=
  ∀ (b : Byte) (s : State),
    (adlerUpdate b s).s1.toNat = (s.s1.toNat + b.toNat) % 65521 ∧
      (adlerUpdate b s).s2.toNat = (s.s2.toNat + (s.s1.toNat + b.toNat) % 65521) % 65521 ∧
      adlerUpdate b s = { s with s1 := (adlerUpdate b s).s1, s2 := (adlerUpdate b s).s2 }

/-! ## Host commands -/

/-- R292, R350: RESET, and hardware reset alike, put every row of R351 at its reset value. What is not of the block
stays, and that it does is the model's choice: the parameters (log 1), the host's later accesses, the bytes already
handed over and the word last delivered (logs 5, 8, 16, 20). -/
def Obligations.ResetRestoresResetState : Prop :=
  ∀ s : State,
    exec .reset s =
        .next { State.reset with params := s.params, hostq := s.hostq, out := s.out, rdata := s.rdata } ∧
      accessStep .hardReset s = exec .reset s

/-- R293, R302: CINIT opens a compress stream from the reset values, keeps the configuration registers, latches the
effort of the level; a level above 9 raises `InvalidLevelError` instead. That the bytes already handed over, the
host's later accesses, the word last delivered and the parameters stay is the model's choice (logs 1, 8, 16, 20). -/
def Obligations.CinitOpensCompressStream : Prop :=
  ∀ s : State,
    (s.level.toNat ≤ 9 → exec .cinit s = .next { State.reset with
      params := s.params, hostq := s.hostq, out := s.out, rdata := s.rdata
      level := s.level, outLimit := s.outLimit, verify := s.verify, ckExpect := s.ckExpect
      mode := .compress, phase := .active, effort := s.params.effortTable.getD s.level.toNat 0 }) ∧
    (9 < s.level.toNat → exec .cinit s = .next { State.reset with
      params := s.params, hostq := s.hostq, out := s.out, rdata := s.rdata
      level := s.level, outLimit := s.outLimit, verify := s.verify, ckExpect := s.ckExpect
      mode := .compress, phase := .fault, err := some .invalidLevel })

/-- R294, R302: DINIT opens a decompress stream from the reset values and keeps the configuration registers. That the
bytes already handed over, the host's later accesses, the word last delivered and the parameters stay is the model's
choice (logs 1, 8, 16, 20). -/
def Obligations.DinitOpensDecompressStream : Prop :=
  ∀ s : State, exec .dinit s = .next { State.reset with
    params := s.params, hostq := s.hostq, out := s.out, rdata := s.rdata
    level := s.level, outLimit := s.outLimit, verify := s.verify, ckExpect := s.ckExpect
    mode := .decompress, phase := .active }

/-- R295, R160, R158, R153 in compress mode. FEED completes: it accepts tokens one after another, each with 260 bytes
or more in the lookahead, until fewer are left. The bytes of `LA ++ chunk` so tokenised are in the window and the
checksum, in order, and at most 259 wait; the output only grows; the decoder and the configuration are untouched.
Accepting one token: it is the match that the search finds, else the literal of the first byte; it is recorded last in
the block; `BLK_BYTES` grows by the bytes it covers; those of its positions whose three bytes are known are inserted,
in increasing order; its bytes move from the lookahead to the window; a block past the close threshold is emitted;
nothing else changes. -/
def Obligations.FeedCompressTokenises : Prop :=
  (∀ (chunk : List Byte) (s : State), s.phase = .active → s.mode = .compress →
    SparseSorted s.win → s.wpos < wsize s.params → s.whave ≤ wsize s.params →
    ∀ fed, fed = { s with la := s.la ++ chunk, totalIn := s.totalIn + chunk.length } →
    ∃ t n k, exec (.feed chunk) s = .next t ∧
      t = { Nat.iterate acceptToken k fed with pending := !t.la.isEmpty } ∧
      (∀ j < k, 260 ≤ (Nat.iterate acceptToken j fed).la.length) ∧
      n ≤ (s.la ++ chunk).length ∧ t.la = (s.la ++ chunk).drop n ∧ t.la.length ≤ 259 ∧
      WindowHolds ((s.la ++ chunk).take n) s t ∧
      t.totalIn = s.totalIn + chunk.length ∧ t.pending = !t.la.isEmpty ∧
      s.out <+: t.out ∧ t.totalOut + s.out.length = s.totalOut + t.out.length ∧
      t.phase = s.phase ∧ t.finalSent = s.finalSent ∧ CompressFrame s t) ∧
  ∀ s : State, s.mode = .compress → 1 ≤ s.la.length →
    SparseSorted s.win → s.wpos < wsize s.params → s.whave ≤ wsize s.params →
    ∀ (token : Token) (span : Nat) (inserted : State),
      token = (match findMatch s s.wtotal s.effort (min 258 s.la.length) with
        | some m => .backref m.len m.dist
        | none => .literal (s.la.getD 0 0)) →
      span = (match token with | .literal _ => 1 | .backref length _ => length) →
      inserted = ((List.range span).filter fun k => k + 2 < s.la.length).foldl
        (fun v k => insertPos (s.wtotal + k) v) s →
      1 ≤ span ∧ span ≤ s.la.length ∧
      ∃ u, acceptToken s = (if wsize s.params - 258 < u.blkBytes then emitBlock false u else u) ∧
        WindowHolds (s.la.take span) s u ∧
        u = { s with
          tok := s.tok ++ [token], blkBytes := s.blkBytes + span, la := s.la.drop span
          head := inserted.head, prev := inserted.prev
          win := u.win, wpos := u.wpos, whave := u.whave, wtotal := u.wtotal, s1 := u.s1, s2 := u.s2 }

/-- R295, R230, R128 in decompress mode: FEED completes. It accepts the chunk, runs decoder steps until the stream has
ended, a step faults, or the next step holds; what was consumed and what waits make up what was accepted; no step is
half done; every byte produced is in the output, the window and the checksum, in order, and no other ring address
changes; TRAIL follows R299. -/
def Obligations.FeedDecompressRunsToHold : Prop :=
  ∀ (chunk : List Byte) (s : State), s.phase = .active → s.mode = .decompress →
    s.AtBoundary → s.TablesInv → s.HeaderInv →
    SparseSorted s.win → s.wpos < wsize s.params → s.whave ≤ wsize s.params →
    ∃ t produced, exec (.feed chunk) s = .next t ∧ t.AtBoundary ∧
      (t.phase = .active ∨ t.phase = .done ∨ t.phase = .fault) ∧
      (t.phase = .active → t.dstate ≠ .done ∧ decoderStep execElement t = none ∧ t.trail = s.trail) ∧
      (t.phase = .done → t.dstate = .done ∧ t.trail = (s.trail || decide (8 ≤ t.inq.length))) ∧
      (t.phase = .fault → t.err ≠ none ∧ t.errPos = t.bitposIn ∧ t.trail = s.trail) ∧
      t.bitposIn + t.inq.length = s.bitposIn + s.inq.length + 8 * chunk.length ∧
      s.bitposIn ≤ t.bitposIn ∧ t.inq <:+ s.inq ++ bytesBits chunk ∧
      t.totalIn = s.totalIn + chunk.length ∧ t.pending = !t.inq.isEmpty ∧
      t.out = s.out ++ produced ∧ t.totalOut = s.totalOut + produced.length ∧ WindowHolds produced s t ∧
      DecompressFrame s t

/-- R299, R296: once the stream has ended FEED discards its chunk and sets TRAIL if there was a byte; FLUSH in
decompress mode has no effect but the re-evaluation of PENDING (R290). -/
def Obligations.InputAfterEndIsDiscarded : Prop :=
  ∀ (chunk : List Byte) (s : State), s.mode = .decompress →
    (s.phase = .done → exec (.feed chunk) s =
      .next { s with trail := s.trail || !chunk.isEmpty, pending := !s.inq.isEmpty }) ∧
    (s.phase = .active ∨ s.phase = .done → exec .flush s = .next { s with pending := !s.inq.isEmpty })

/-- R296, R73 in compress mode: FLUSH completes; every byte fed so far has been tokenised, nothing waits in any
register, and the bytes returned so far end on a byte boundary with `00 00 FF FF`; the stream stays open. -/
def Obligations.FlushForcesOutputOut : Prop :=
  ∀ s : State, s.phase = .active → s.mode = .compress → s.SinkInv →
    SparseSorted s.win → s.wpos < wsize s.params → s.whave ≤ wsize s.params →
    ∃ t emitted, exec .flush s = .next t ∧
      t.la = [] ∧ t.tok = [] ∧ t.onb = 0 ∧ t.oacc = 0 ∧ t.bitposOut % 8 = 0 ∧
      t.out = s.out ++ emitted ++ [0x00, 0x00, 0xFF, 0xFF] ∧
      t.totalOut + s.out.length = s.totalOut + t.out.length ∧
      WindowHolds s.la s t ∧ t.phase = .active ∧ t.pending = false ∧ t.finalSent = s.finalSent ∧
      t.totalIn = s.totalIn ∧ CompressFrame s t

/-- R297, R214, R215 in compress mode: FINISH completes; every byte has been tokenised, the final block is out, the
stream is a whole number of bytes, and the phase is FINISHED. -/
def Obligations.FinishCompressClosesStream : Prop :=
  ∀ s : State, s.phase = .active → s.mode = .compress → s.SinkInv →
    SparseSorted s.win → s.wpos < wsize s.params → s.whave ≤ wsize s.params →
    ∃ t, exec .finish s = .next t ∧
      t.la = [] ∧ t.tok = [] ∧ t.blkBytes = 0 ∧ t.estate = .accumulating ∧ t.finalSent = true ∧
      t.onb = 0 ∧ t.oacc = 0 ∧ t.bitposOut % 8 = 0 ∧ s.out <+: t.out ∧
      t.totalOut + s.out.length = s.totalOut + t.out.length ∧
      WindowHolds s.la s t ∧ t.phase = .finished ∧ t.pending = false ∧ t.totalIn = s.totalIn ∧ CompressFrame s t

/-- R297, R285 in decompress mode: before the end of the stream FINISH raises `InputTooShortError` at `BITPOS_IN`;
after it, it compares the checksum if VERIFY is set, and closes the stream or raises `ChecksumMismatchError`. -/
def Obligations.FinishDecompressChecksEnd : Prop :=
  ∀ s : State, s.mode = .decompress → s.AtBoundary →
    (s.phase = .active → exec .finish s = .next { s with
      err := some .inputTooShort, errPos := s.bitposIn, phase := .fault, pending := !s.inq.isEmpty }) ∧
    (s.phase = .done → (s.verify = true → adler s = s.ckExpect) →
      exec .finish s = .next { s with phase := .finished, pending := !s.inq.isEmpty }) ∧
    (s.phase = .done → s.verify = true → adler s ≠ s.ckExpect → exec .finish s = .next { s with
      err := some .checksumMismatch, errPos := 0, phase := .fault, pending := !s.inq.isEmpty })

/-- R298, R291: each reserved command code raises `BadCommandError(RESERVED_CODE)` in every phase but FAULT; nothing
else changes but PENDING (R290). -/
def Obligations.ReservedCommandsFault : Prop :=
  ∀ (code : Byte) (s : State), s.phase ≠ .fault → s.AtBoundary →
    ∀ i ∈ ([.cmdReserved00, .cmdReserved07, .cmdReserved080F code, .cmdReserved101F code, .cmdReserved203F code,
        .cmdReserved407F code, .cmdReserved80FF code] : List Instr),
      exec i s = .next { s with err := some .reservedCode, errPos := 0, phase := .fault, pending := pendingNow s }

/-- R298 at the host's access: a write to `CMD` whose bits [7:0] are 0x00 or 0x07..0xFF, whatever its other bits, and
FEED, FLUSH and FINISH where no stream is open or the stream is closed, raise `BadCommandError`; no other state
changes but the access itself and PENDING (R290). In FAULT all of these writes are ignored. -/
def Obligations.BadCommandWritesFault : Prop :=
  ∀ (v : Word32) (chunk : List Byte) (rest : List HostAccess) (s : State),
    s.hostq = .write 0 v chunk :: rest → s.AtBoundary →
    (s.phase ≠ .fault → v.toNat % 256 = 0 ∨ 7 ≤ v.toNat % 256 → step s = .next { s with
      hostq := rest, err := some .reservedCode, errPos := 0, phase := .fault, pending := pendingNow s }) ∧
    (s.phase = .idle ∨ s.phase = .finished → 4 ≤ v.toNat % 256 → v.toNat % 256 ≤ 6 → step s = .next { s with
      hostq := rest, err := some .wrongPhase, errPos := 0, phase := .fault, pending := pendingNow s }) ∧
    (s.phase = .fault → v.toNat % 256 = 0 ∨ 4 ≤ v.toNat % 256 → step s = .next { s with hostq := rest })

/-- R327, R291: in FAULT every command but RESET, CINIT and DINIT is ignored, and no decoder step runs: no state
changes at all. -/
def Obligations.FaultIsSticky : Prop :=
  ∀ (chunk : List Byte) (code : Byte) (s : State), s.phase = .fault →
    (∀ i ∈ ([.feed chunk, .flush, .finish, .cmdReserved00, .cmdReserved07, .cmdReserved080F code,
        .cmdReserved101F code, .cmdReserved203F code, .cmdReserved407F code, .cmdReserved80FF code] : List Instr),
      exec i s = .next s) ∧
    (s.hostq = [] → step s = .next s)

/-! ## Stream elements -/

/-- R231, R261: the four block headers. -/
def Obligations.BlockHeadersSelectPayload : Prop :=
  ∀ (final : Bool) (s : State),
    exec (.blockStored final) s = .next { commit s with bfinal := final, dstate := .storedLen } ∧
    exec (.blockFixed final) s = .next { commit s with
      bfinal := final, dstate := .sym, lt := rawTable fixedLitLens, dt := rawTable fixedDistLens } ∧
    exec (.blockDynamic final) s = .next { commit s with bfinal := final, dstate := .dynHdr } ∧
    exec (.blockReserved final) s = .next { s with
      cursor := 0, pendLen := none, err := some .malformedBlockType, errPos := s.bitposIn, phase := .fault }

/-- R255, R236, R140, R280: a literal under the cap goes to the window, the checksum and the output; a literal that
would exceed the cap raises `OutputLimitExceededError` and produces nothing. -/
def Obligations.LiteralsAppendOneByte : Prop :=
  ∀ (b : Byte) (s : State), s.mode = .decompress →
    ∀ i ∈ ([.lit000_127 b, .lit128_143 b, .lit144_159 b, .lit160_191 b, .lit192_255 b] : List Instr),
      (s.totalOut + 1 ≤ s.outLimit.toNat → exec i s = .next { commit s with
        win := winWrite s.win s.wpos b
        wpos := (s.wpos + 1) % 2 ^ s.params.wbits
        whave := min (s.whave + 1) (2 ^ s.params.wbits)
        wtotal := s.wtotal + 1
        s1 := .ofNat 16 ((s.s1.toNat + b.toNat) % 65521)
        s2 := .ofNat 16 ((s.s2.toNat + (s.s1.toNat + b.toNat) % 65521) % 65521)
        out := s.out ++ [b]
        totalOut := s.totalOut + 1 }) ∧
      (s.outLimit.toNat < s.totalOut + 1 → exec i s = .next { s with
        cursor := 0, pendLen := none, err := some .outputLimitExceeded, errPos := s.bitposIn, phase := .fault })

/-- R259, R235: the end-of-block symbol ends the block; the next state is DONE after the final block, else HDR. -/
def Obligations.EndOfBlockEndsBlock : Prop :=
  ∀ s : State,
    (s.bfinal = true → exec .eob s = .next { commit s with dstate := .done }) ∧
    (s.bfinal = false → exec .eob s = .next { commit s with dstate := .hdr })

/-- R91, R96, R258: the length half of a match, symbol by symbol: the length is the base plus the extra value; nothing
else happens before the distance half (log 7). -/
def Obligations.LengthSymbolsFormLength : Prop :=
  ∀ (x : BitVec 5) (s : State),
    ∀ e ∈ ([(.len257 x, 3), (.len258 x, 4), (.len259 x, 5), (.len260 x, 6), (.len261 x, 7), (.len262 x, 8),
        (.len263 x, 9), (.len264 x, 10), (.len265 x, 11), (.len266 x, 13), (.len267 x, 15), (.len268 x, 17),
        (.len269 x, 19), (.len270 x, 23), (.len271 x, 27), (.len272 x, 31), (.len273 x, 35), (.len274 x, 43),
        (.len275 x, 51), (.len276 x, 59), (.len277 x, 67), (.len278 x, 83), (.len279 x, 99), (.len280 x, 115),
        (.len281 x, 131), (.len282 x, 163), (.len283 x, 195), (.len284 x, 227), (.len285 x, 258)] :
        List (Instr × Nat)),
      exec e.1 s = .next { s with pendLen := some (e.2 + x.toNat) }

/-- R93, R96, R258, R142: the distance half of a match, symbol by symbol, within the history and the cap: the element
is consumed and the last `distance` bytes, repeated periodically, are appended `length` bytes long. -/
def Obligations.DistanceSymbolsCopyMatch : Prop :=
  ∀ (x : BitVec 13) (length : Nat) (s : State), s.mode = .decompress → s.pendLen = some length →
    SparseSorted s.win → s.wpos < wsize s.params → s.whave ≤ wsize s.params →
    s.totalOut + length ≤ s.outLimit.toNat →
    ∀ e ∈ ([(.dist0 x, 1), (.dist1 x, 2), (.dist2 x, 3), (.dist3 x, 4), (.dist4 x, 5), (.dist5 x, 7), (.dist6 x, 9),
        (.dist7 x, 13), (.dist8 x, 17), (.dist9 x, 25), (.dist10 x, 33), (.dist11 x, 49), (.dist12 x, 65),
        (.dist13 x, 97), (.dist14 x, 129), (.dist15 x, 193), (.dist16 x, 257), (.dist17 x, 385), (.dist18 x, 513),
        (.dist19 x, 769), (.dist20 x, 1025), (.dist21 x, 1537), (.dist22 x, 2049), (.dist23 x, 3073),
        (.dist24 x, 4097), (.dist25 x, 6145), (.dist26 x, 8193), (.dist27 x, 12289), (.dist28 x, 16385),
        (.dist29 x, 24577)] : List (Instr × Nat)),
      e.2 + x.toNat ≤ s.whave →
        ∃ t, exec e.1 s = .next t ∧
          WindowHolds ((List.range length).map (copiedByte s (e.2 + x.toNat))) s t ∧
          t.out = s.out ++ (List.range length).map (copiedByte s (e.2 + x.toNat)) ∧
          t.totalOut = s.totalOut + length ∧ WindowFrame (commit s) t

/-- R143, R236, R258, R330: the distance half of a match whose distance exceeds the history raises
`DistanceTooFarError`; else, if the match would exceed the cap, `OutputLimitExceededError`. No byte is produced. With
no length before it the model stops (log 12). -/
def Obligations.DistanceSymbolsCheckHistoryThenCap : Prop :=
  ∀ (x : BitVec 13) (s : State),
    ∀ e ∈ ([(.dist0 x, 1), (.dist1 x, 2), (.dist2 x, 3), (.dist3 x, 4), (.dist4 x, 5), (.dist5 x, 7), (.dist6 x, 9),
        (.dist7 x, 13), (.dist8 x, 17), (.dist9 x, 25), (.dist10 x, 33), (.dist11 x, 49), (.dist12 x, 65),
        (.dist13 x, 97), (.dist14 x, 129), (.dist15 x, 193), (.dist16 x, 257), (.dist17 x, 385), (.dist18 x, 513),
        (.dist19 x, 769), (.dist20 x, 1025), (.dist21 x, 1537), (.dist22 x, 2049), (.dist23 x, 3073),
        (.dist24 x, 4097), (.dist25 x, 6145), (.dist26 x, 8193), (.dist27 x, 12289), (.dist28 x, 16385),
        (.dist29 x, 24577)] : List (Instr × Nat)),
      (s.pendLen = none → exec e.1 s = .fault .strayDistance) ∧
      ∀ length, s.pendLen = some length →
        (s.whave < e.2 + x.toNat → exec e.1 s = .next { s with
          cursor := 0, pendLen := none, err := some .distanceTooFar, errPos := s.bitposIn, phase := .fault }) ∧
        (e.2 + x.toNat ≤ s.whave → s.outLimit.toNat < s.totalOut + length → exec e.1 s = .next { s with
          cursor := 0, pendLen := none, err := some .outputLimitExceeded, errPos := s.bitposIn, phase := .fault })

/-- R256, R257: the code points 286, 287 and 30, 31 raise `InvalidHuffmanCodeError` with their sub-causes. -/
def Obligations.InvalidCodePointsFault : Prop :=
  ∀ (low : BitVec 1) (s : State),
    exec (.litlenInvalid286_287 low) s = .next { s with
      cursor := 0, pendLen := none, err := some .badLitLen, errPos := s.bitposIn, phase := .fault } ∧
    exec (.distInvalid30_31 low) s = .next { s with
      cursor := 0, pendLen := none, err := some .badDist, errPos := s.bitposIn, phase := .fault }

/-- R246, R88: one code-length item. It appends its run of lengths while lengths are still to come; it may not run past
`NLEN + NDIST`; a repeat needs a length before it. -/
def Obligations.CodeLengthItems : Prop :=
  ∀ (l : BitVec 4) (x : BitVec 2) (y : BitVec 3) (z : BitVec 7) (s : State),
    (∀ e ∈ ([(.cl l, l, 1), (.repz17 y, 0, 3 + y.toNat), (.repz18 z, 0, 11 + z.toNat)] ++
        (s.lens.getLast?.toList.map fun v => (.rep16 x, v, 3 + x.toNat)) : List (Instr × BitVec 4 × Nat)),
      (s.lens.length + e.2.2 < s.nlen.toNat + s.ndist.toNat →
        exec e.1 s = .next { commit s with lens := s.lens ++ List.replicate e.2.2 e.2.1 }) ∧
      (s.nlen.toNat + s.ndist.toNat < s.lens.length + e.2.2 → exec e.1 s = .next { s with
        cursor := 0, pendLen := none, err := some .repeatOverrun, errPos := s.bitposIn, phase := .fault })) ∧
    (s.lens = [] → exec (.rep16 x) s = .next { s with
      cursor := 0, pendLen := none, err := some .repeatNoPrev, errPos := s.bitposIn, phase := .fault })

/-- R250, R252: the item that completes the lengths finishes the header: no code for symbol 256 is refused first, then
an over-subscribed literal/length code, then an over-subscribed distance code; else both tables are built and the
symbols begin. -/
def Obligations.LastCodeLengthFinishesHeader : Prop :=
  ∀ (l : BitVec 4) (x : BitVec 2) (y : BitVec 3) (z : BitVec 7) (s : State),
    257 ≤ s.nlen.toNat → s.nlen.toNat ≤ 286 → s.ndist.toNat ≤ 30 →
    ∀ e ∈ ([(.cl l, l, 1), (.rep16 x, s.lens.getLast?.getD 0, 3 + x.toNat), (.repz17 y, 0, 3 + y.toNat),
        (.repz18 z, 0, 11 + z.toNat)] : List (Instr × BitVec 4 × Nat)),
      s.lens.length + e.2.2 = s.nlen.toNat + s.ndist.toNat →
      ∀ lens ll dl, lens = s.lens ++ List.replicate e.2.2 e.2.1 →
        ll = (List.range 286).map (fun k => if k < s.nlen.toNat then (lens.getD k 0).toNat else 0) →
        dl = (List.range 30).map (fun k => if k < s.ndist.toNat then (lens.getD (s.nlen.toNat + k) 0).toNat else 0) →
        (ll.getD 256 0 = 0 → exec e.1 s = .next { s with
          cursor := 0, pendLen := none, err := some .noEobCode, errPos := s.bitposIn, phase := .fault }) ∧
        (ll.getD 256 0 ≠ 0 → buildDecodeTable ll = none ∨ buildDecodeTable dl = none → exec e.1 s = .next { s with
          cursor := 0, pendLen := none, err := some .oversubscribed, errPos := s.bitposIn, phase := .fault }) ∧
        ∀ lt dt, ll.getD 256 0 ≠ 0 → buildDecodeTable ll = some lt → buildDecodeTable dl = some dt →
          exec e.1 s = .next { commit s with lens := lens, lt := lt, dt := dt, dstate := .sym }

/-! ## Matcher and Block Encoder -/

/-- R152: `insert(p)` makes `p` the head of its hash's chain and remembers the head it replaces; every other entry of
both memories stays. -/
def Obligations.InsertMakesChainHead : Prop :=
  ∀ (p : Nat) (s : State), SparseSorted s.head → SparseSorted s.prev →
    headRead (insertPos p s) (hashAt s p) = some p ∧
      prevRead (insertPos p s) (p % wsize s.params) = headRead s (hashAt s p) ∧
      (∀ h, h ≠ hashAt s p → headRead (insertPos p s) h = headRead s h) ∧
      (∀ k, k ≠ p % wsize s.params → prevRead (insertPos p s) k = prevRead s k) ∧
      insertPos p s = { s with head := (insertPos p s).head, prev := (insertPos p s).prev }

/-- R154: the match found is within the format's bounds and within the history, and its bytes are equal, into the
lookahead too. -/
def Obligations.FindMatchIsSound : Prop :=
  ∀ (s : State) (m : Best), s.ChainInv →
    findMatch s s.wtotal s.effort (min maxMatch s.la.length) = some m →
    3 ≤ m.len ∧ m.len ≤ 258 ∧ m.len ≤ s.la.length ∧
      1 ≤ m.dist ∧ m.dist ≤ min s.wtotal (wsize s.params) ∧
      ∀ k < m.len, dataAt s (s.wtotal - m.dist + k) = dataAt s (s.wtotal + k)

/-- R154, R155: among the candidates that the effort allows, the match is the longest, and the first in chain order
among the longest; there is no match only if no candidate reaches three bytes. -/
def Obligations.FindMatchIsLongestFirst : Prop :=
  ∀ (s : State) (p effort maxlen : Nat),
    (findMatch s p effort maxlen = none → maxlen < 3 ∨
      ∀ q ∈ candidates s p effort (headRead s (hashAt s p)), matchLength s q p maxlen < 3) ∧
    ∀ m, findMatch s p effort maxlen = some m →
      ∃ before q after, candidates s p effort (headRead s (hashAt s p)) = before ++ q :: after ∧
        m.dist = p - q ∧ m.len = matchLength s q p maxlen ∧ 3 ≤ m.len ∧
        (∀ r ∈ before, matchLength s r p maxlen < m.len) ∧ ∀ r ∈ after, matchLength s r p maxlen ≤ m.len

/-- R202, R204, R211: a block is emitted as the cheapest of its three types, stored before fixed before dynamic on
equal cost; the bits it adds are the header and the payload of that type, exactly as many as the cost; the buffer is
empty afterwards. -/
def Obligations.EmitBlockAddsCheapestCost : Prop :=
  ∀ (final : Bool) (s : State) (stored fixed dyn type : Nat),
    stored = 3 + (8 - (s.bitposOut + 3) % 8) % 8 + 32 + 8 * s.blkBytes →
    fixed = fixedCost s.tok → dyn = dynCost (dynPlan s.tok) s.tok →
    type = (if stored ≤ fixed ∧ stored ≤ dyn then 0 else if fixed ≤ dyn then 1 else 2) →
    (emitBlock final s).bitposOut = s.bitposOut + min stored (min fixed dyn) ∧
      outBits (emitBlock final s) = outBits s ++ (final :: type.testBit 0 :: type.testBit 1 :: payloadBits s type) ∧
      OutputFrame { s with tok := [], blkBytes := 0, estate := .accumulating, finalSent := s.finalSent || final }
        (emitBlock final s)

/-- R217: FINISH with no token pending emits the 10-bit fixed block at every bit offset: `fixed_cost = 10`, less than
either other cost; at a byte boundary the two bytes `03 00`. -/
def Obligations.EmptyFinalBlockIsFixed : Prop :=
  ∀ s : State, s.phase = .active → s.mode = .compress → s.SinkInv → s.la = [] → s.tok = [] → s.blkBytes = 0 →
    fixedCost s.tok = 10 ∧ 35 ≤ storedCost s.bitposOut s.blkBytes ∧ 10 < dynCost (dynPlan s.tok) s.tok ∧
      (s.onb = 0 → storedCost s.bitposOut s.blkBytes = 40) ∧
      ∃ t, exec .finish s = .next t ∧
        outBits t = outBits s ++ [true, true, false] ++ List.replicate 7 false ++
          List.replicate ((8 - (s.bitposOut + 10) % 8) % 8) false ∧
        (s.onb = 0 → t.out = s.out ++ [0x03, 0x00])

/-- R206, R209, R216: of the tables of a dynamic block, the counts lie in their ranges, and every symbol that is
emitted has a code. -/
def Obligations.EmittedSymbolsHaveCodes : Prop :=
  ∀ toks : List Token,
    (257 ≤ (dynPlan toks).nlen ∧ (dynPlan toks).nlen ≤ 286) ∧
    (1 ≤ (dynPlan toks).ndist ∧ (dynPlan toks).ndist ≤ 30) ∧
    (4 ≤ (dynPlan toks).ncode ∧ (dynPlan toks).ncode ≤ 19) ∧
    (∀ l ∈ (dynPlan toks).ll, l ≤ 15) ∧ (∀ l ∈ (dynPlan toks).dl, l ≤ 15) ∧ (∀ l ∈ (dynPlan toks).cl, l ≤ 7) ∧
    (∀ t ∈ toks, litLenSymbol t ≤ 285 ∧ (dynPlan toks).ll.getD (litLenSymbol t) 0 ≠ 0 ∧
      fixedLitLens.getD (litLenSymbol t) 0 ≠ 0) ∧
    (∀ t ∈ toks, ∀ j, distSymbol t = some j → j ≤ 29 ∧ (dynPlan toks).dl.getD j 0 ≠ 0) ∧
    (dynPlan toks).ll.getD 256 0 ≠ 0 ∧
    ∀ e ∈ (dynPlan toks).cls, e.1 ≤ 18 ∧ (dynPlan toks).cl.getD e.1 0 ≠ 0 ∧ e.2 < 2 ^ clExtra e.1

/-- R207, R88: the run-length items of a list of code lengths stand for exactly that list, whatever lengths came
before; each item is a code-length symbol with an extra value that fits. -/
def Obligations.RunLengthItemsExpandBack : Prop :=
  ∀ lens known : List Nat, (∀ l ∈ lens, l ≤ 15) →
    expandItems (rle lens) known = known ++ lens ∧ ∀ e ∈ rle lens, e.1 ≤ 18 ∧ e.2 < 2 ^ clExtra e.1

/-! ## The host's registers -/

/-- R30, R303, R282, R68: a host read changes nothing but the delivered word, and delivers what the register map says;
a host write changes only the configuration register it names, in its writable bits; a byte taken from the output
stream is the oldest one, is delivered and is removed, so it is delivered exactly once. The model's choices in it: the
queue of accesses (log 5), the field the word or byte is delivered in (log 20), and that a take from an empty stream
does nothing (log 8). -/
def Obligations.HostRegisterAccess : Prop :=
  ∀ (n : Nat) (v : Word32) (chunk : List Byte) (rest : List HostAccess) (s : State),
    (s.hostq = .read n :: rest → step s = .next { s with hostq := rest, rdata := readReg n s }) ∧
    readReg 0 s = 0 ∧ readReg 2 s = s.level.setWidth 32 ∧ readReg 3 s = s.outLimit ∧
    (readReg 4 s).toNat = s.verify.toNat ∧ readReg 5 s = s.ckExpect ∧
    (readReg 6 s).toNat = s.s2.toNat * 2 ^ 16 + s.s1.toNat ∧
    (readReg 8 s).toNat = s.errPos % 2 ^ 32 ∧ (readReg 9 s).toNat = s.errPos / 2 ^ 32 % 2 ^ 32 ∧
    (readReg 10 s).toNat = s.totalIn % 2 ^ 32 ∧ (readReg 11 s).toNat = s.totalIn / 2 ^ 32 % 2 ^ 32 ∧
    (readReg 12 s).toNat = s.totalOut % 2 ^ 32 ∧ (readReg 13 s).toNat = s.totalOut / 2 ^ 32 % 2 ^ 32 ∧
    (14 ≤ n → readReg n s = 0) ∧
    (∀ b bytes, s.hostq = .take :: rest → s.out = b :: bytes → step s = .next { s with
      hostq := rest, out := bytes, rdata := b.setWidth 32 }) ∧
    (s.hostq = .take :: rest → s.out = [] → step s = .next { s with hostq := rest }) ∧
    (s.hostq = .write n v chunk :: rest → n ≠ 0 → step s = .next { s with
      hostq := rest
      level := if n = 2 then v.setWidth 8 else s.level
      outLimit := if n = 3 then v else s.outLimit
      verify := if n = 4 then v.getLsbD 0 else s.verify
      ckExpect := if n = 5 then v else s.ckExpect })

/-- R35, R320, R321, R325: the fields of `STATUS`; what `raise` records, and what `ERR` then reads, cause by cause. Two
parts of the LAST clause are the model's: that it reads 0 in MODE NONE (log 14), and that it stays `BFINAL` after a
fault inside a final block, where the spec's listing of program P5 gives 0 (log 22). -/
def Obligations.StatusAndErrRegisters : Prop :=
  ∀ s : State,
    (readReg 1 s).toNat =
      (match s.mode with | .none => 0 | .compress => 1 | .decompress => 2) +
      4 * (match s.phase with | .idle => 0 | .active => 1 | .done => 2 | .finished => 3 | .fault => 4) +
      32 * s.trail.toNat +
      64 * (match s.mode with | .none => 0 | .compress => s.finalSent.toNat | .decompress => s.bfinal.toNat) +
      128 * s.pending.toNat ∧
    (s.err = none → readReg 7 s = 0) ∧
    ∀ e ∈ ([(.inputTooShort, 1, 0), (.malformedBlockType, 2, 0), (.unassignedCode, 3, 0), (.badLitLen, 3, 1),
        (.badDist, 3, 2), (.distanceTooFar, 4, 0), (.checksumMismatch, 5, 0), (.outputLimitExceeded, 6, 0),
        (.storedLenCheck, 7, 1), (.tooManyCodes, 7, 2), (.repeatNoPrev, 7, 3), (.repeatOverrun, 7, 4),
        (.oversubscribed, 7, 5), (.noEobCode, 7, 6), (.invalidLevel, 8, 0), (.reservedCode, 9, 0),
        (.wrongPhase, 9, 1)] : List (Cause × Nat × Nat)),
      raise e.1 s = { s with
        cursor := 0, pendLen := none, err := some e.1, phase := .fault
        errPos := if e.2.1 = 5 ∨ e.2.1 = 8 ∨ e.2.1 = 9 then 0 else s.bitposIn } ∧
      (readReg 7 (raise e.1 s)).toNat = e.2.1 + 2 ^ 8 * e.2.2

/-! ## Steps -/

/-- R81, R290: when the host's next access is a write to `CMD`, the step executes the command that bits [7:0] of the
value decode to, with the access taken from the queue (log 5). Every value decodes. -/
def Obligations.StepRunsWrittenCommand : Prop :=
  ∀ (v : Word32) (chunk : List Byte) (rest : List HostAccess) (s : State), s.hostq = .write 0 v chunk :: rest →
    (∃ i, decode ⟨.cmd, v.toNat % 256, 0, chunk⟩ = .ok i) ∧
    ∀ i, decode ⟨.cmd, v.toNat % 256, 0, chunk⟩ = .ok i → step s = exec i { s with hostq := rest }

/-- R230, R98: with no access waiting, a step of an open decompress stream executes the instruction fetched at the
decoder's program counter, its bits behind the cursor; a length symbol only when its distance symbol can be read too
(logs 6, 7). -/
def Obligations.StepRunsFetchedElement : Prop :=
  ∀ (s t : State) (i : Instr), s.hostq = [] → decoding s = true → fetchElement s = some (.element i t) →
    (∀ u, exec i t = .next u → distanceHolds u = false) → step s = exec i t

/-- R128, R126, R333: with no access waiting, a step whose element is not complete changes nothing, one whose bits
form no code raises `InvalidHuffmanCodeError(UNASSIGNED)` at the start of the step, and where no stream is being decoded
nothing happens. That a step with no access waiting makes a transition of the decoder at all, and that a match is two
of them, are the model's choices (logs 6, 7). -/
def Obligations.StepHoldsOrFaultsOnBits : Prop :=
  ∀ s : State, s.hostq = [] →
    (decoding s = false → step s = .next s) ∧
    (decoding s = true → s.AtBoundary → decoderStep exec s = none → step s = .next s) ∧
    (decoding s = true → fetchElement s = some .unassigned → step s = .next { s with
      cursor := 0, pendLen := none, err := some .unassignedCode, errPos := s.bitposIn, phase := .fault }) ∧
    (decoding s = true → s.AtBoundary → ∀ i t u, fetchElement s = some (.element i t) → exec i t = .next u →
      u.pendLen ≠ none → fetchElement u = some .hold → step s = .next s)

/-- R233, R125, R236, R235: the stored-block header: alignment, LEN, its complement, the cap, then the bytes. That a
step with no access waiting makes this transition of the decoder is the model's choice (log 6). -/
def Obligations.StoredLengthStep : Prop :=
  ∀ (s : State) (pad rest : List Bool) (len nlen : Nat), s.hostq = [] → decoding s = true → s.AtBoundary →
    s.dstate = .storedLen → pad.length = (8 - s.bitposIn % 8) % 8 → len < 2 ^ 16 → nlen < 2 ^ 16 →
    (s.inq.length < pad.length + 32 → step s = .next s) ∧
    (s.inq = pad ++ bitsLSB len 16 ++ bitsLSB nlen 16 ++ rest →
      (nlen ≠ 0xFFFF - len → step s = .next { s with
        err := some .storedLenCheck, errPos := s.bitposIn, phase := .fault }) ∧
      (nlen = 0xFFFF - len → s.outLimit.toNat < s.totalOut + len → step s = .next { s with
        err := some .outputLimitExceeded, errPos := s.bitposIn, phase := .fault }) ∧
      (nlen = 0xFFFF - len → s.totalOut + len ≤ s.outLimit.toNat → step s = .next { s with
        inq := rest
        bitposIn := s.bitposIn + pad.length + 32
        rem := .ofNat 16 len
        dstate := if len ≠ 0 then .storedCopy else if s.bfinal then .done else .hdr }))

/-- R234, R235: one stored byte, appended to the window, the checksum and the output; the block ends by count. That a
step with no access waiting makes this transition of the decoder is the model's choice (log 6), and so is the wrap of
`REM` at 0, which no run reaches (log 21). -/
def Obligations.StoredCopyStep : Prop :=
  ∀ (s : State) (b : Byte) (rest : List Bool), s.hostq = [] → decoding s = true → s.AtBoundary →
    s.dstate = .storedCopy →
    (s.inq.length < 8 → step s = .next s) ∧
    (s.inq = bitsLSB b.toNat 8 ++ rest → step s = .next { s with
      inq := rest
      bitposIn := s.bitposIn + 8
      win := winWrite s.win s.wpos b
      wpos := (s.wpos + 1) % 2 ^ s.params.wbits
      whave := min (s.whave + 1) (2 ^ s.params.wbits)
      wtotal := s.wtotal + 1
      s1 := .ofNat 16 ((s.s1.toNat + b.toNat) % 65521)
      s2 := .ofNat 16 ((s.s2.toNat + (s.s1.toNat + b.toNat) % 65521) % 65521)
      out := s.out ++ [b]
      totalOut := s.totalOut + 1
      rem := s.rem - 1
      dstate := if s.rem ≠ 1 then .storedCopy else if s.bfinal then .done else .hdr })

/-- R240: the counts of a dynamic header: five, five and four bits with their biases; more codes than the alphabets
have are refused. That a step with no access waiting makes this transition of the decoder is the model's choice
(log 6). -/
def Obligations.DynamicCountsStep : Prop :=
  ∀ (s : State) (hlit hdist hclen : Nat) (rest : List Bool), s.hostq = [] → decoding s = true → s.AtBoundary →
    s.dstate = .dynHdr → hlit < 2 ^ 5 → hdist < 2 ^ 5 → hclen < 2 ^ 4 →
    (s.inq.length < 14 → step s = .next s) ∧
    (s.inq = bitsLSB hlit 5 ++ bitsLSB hdist 5 ++ bitsLSB hclen 4 ++ rest →
      (286 < hlit + 257 ∨ 30 < hdist + 1 → step s = .next { s with
        err := some .tooManyCodes, errPos := s.bitposIn, phase := .fault }) ∧
      (hlit + 257 ≤ 286 → hdist + 1 ≤ 30 → step s = .next { s with
        inq := rest
        bitposIn := s.bitposIn + 14
        nlen := .ofNat 9 (hlit + 257)
        ndist := .ofNat 6 (hdist + 1)
        ncode := .ofNat 5 (hclen + 4)
        cll := Vector.replicate 19 0
        idx := 0
        dstate := .dynCl }))

/-- R242, R244, R87: one code-length-code length goes to its place in the fixed permuted order; the last one builds the
code-length table, or raises OVERSUBSCRIBED and changes nothing. That a step with no access waiting makes this
transition of the decoder is the model's choice (log 6). -/
def Obligations.CodeLengthCodeStep : Prop :=
  ∀ (s : State) (v : Nat) (rest : List Bool) (cll : Vector (BitVec 3) 19), s.hostq = [] → decoding s = true →
    s.AtBoundary → s.dstate = .dynCl → s.idx.toNat < s.ncode.toNat → s.ncode.toNat ≤ 19 → v < 2 ^ 3 →
    cll = s.cll.setIfInBounds
      (([16, 17, 18, 0, 8, 7, 9, 6, 10, 5, 11, 4, 12, 3, 13, 2, 14, 1, 15] : List Nat).getD s.idx.toNat 0)
      (.ofNat 3 v) →
    (s.inq.length < 3 → step s = .next s) ∧
    (s.inq = bitsLSB v 3 ++ rest →
      (s.idx.toNat + 1 < s.ncode.toNat → step s = .next { s with
        inq := rest, bitposIn := s.bitposIn + 3, cll := cll, idx := s.idx + 1 }) ∧
      (s.idx.toNat + 1 = s.ncode.toNat → buildDecodeTable (cll.toList.map BitVec.toNat) = none →
        step s = .next { s with err := some .oversubscribed, errPos := s.bitposIn, phase := .fault }) ∧
      ∀ T, s.idx.toNat + 1 = s.ncode.toNat → buildDecodeTable (cll.toList.map BitVec.toNat) = some T →
        step s = .next { s with
          inq := rest, bitposIn := s.bitposIn + 3, cll := cll, idx := s.idx + 1
          clt := T, lens := [], dstate := .dynLens })

/-! ## Invariants -/

/-- The state after reset is safe: every invariant of the statements below holds there. -/
def Obligations.ResetStateIsSafe : Prop := State.reset.Safe ∧ State.reset.AtBoundary ∧ State.reset.CapInv

/-- R27, R32, R62, R63: every step, whatever the host does, keeps the memories in canonical form, the window registers
what the window holds, and both checksum sums below 65521. -/
def Obligations.StepKeepsWindowAndChecksum : Prop :=
  ∀ s t : State, s.MemWF → s.WindowInv → s.ChecksumInv → step s = .next t →
    t.MemWF ∧ t.WindowInv ∧ t.ChecksumInv

/-- R35, R291, R240, R246, R100: every step keeps `PHASE = FAULT` exactly where a fault is recorded, the legal pairs of
mode and phase, the registers of a dynamic header in their ranges and the decode tables within their alphabets; and it
never refuses an instruction. -/
def Obligations.StepKeepsPhaseAndDecoder : Prop :=
  ∀ s : State, s.FaultInv → s.PhaseInv → s.TablesInv → s.HeaderInv →
    ∃ t, step s = .next t ∧ t.FaultInv ∧ t.PhaseInv ∧ t.TablesInv ∧ t.HeaderInv

/-- R23, R34, R201, R28: every step keeps the output registers, the output counter, the token buffer and the chains
as the rules say they are. -/
def Obligations.StepKeepsEncoder : Prop :=
  ∀ s t : State, s.params.Legal → s.SinkInv → s.CountInv → s.BlockInv → s.ChainInv → step s = .next t →
    t.params.Legal ∧ t.SinkInv ∧ t.CountInv ∧ t.BlockInv ∧ t.ChainInv

/-- R236, R34: in decompress mode the output never exceeds `OUT_LIMIT`, at any step at which the host does not write
`OUT_LIMIT` itself. -/
def Obligations.StepKeepsOutputCap : Prop :=
  ∀ s t : State, s.CapInv → (∀ v chunk rest, s.hostq ≠ .write 3 v chunk :: rest) → step s = .next t → t.CapInv

/-- R30, R60, R328: no instruction takes back a byte of output, none but RESET touches a configuration register, and
none touches the parameters, the host's accesses or the word last delivered. That RESET, CINIT and DINIT leave the
bytes not yet taken is the model's choice (logs 8, 16), and so are the fields for the parameters (log 1), the accesses
(log 5) and the word delivered (log 20). -/
def Obligations.InstructionsKeepHostSide : Prop :=
  ∀ (i : Instr) (s t : State), exec i s = .next t →
    s.out <+: t.out ∧ (i ≠ .reset → SameConfig s t) ∧
      t.params = s.params ∧ t.hostq = s.hostq ∧ t.rdata = s.rdata

/-- R325, R230: an element of the stream that faults changes nothing but the fault record and the phase; the position
recorded is the start of the step. -/
def Obligations.FaultingElementChangesNothing : Prop :=
  ∀ (i : Instr) (s t : State), (encode i).format ≠ .cmd → s.phase ≠ .fault → exec i s = .next t →
    t.phase = .fault →
    t.err ≠ none ∧
      t = { s with cursor := 0, pendLen := none, err := t.err, errPos := s.bitposIn, phase := .fault }

/-! ## Independence of chunking, and the round trip -/

/-- R161: in compress mode, feeding two chunks one after the other and feeding them as one leaves the same state, hence
the same output. -/
def Obligations.CompressIgnoresChunking : Prop :=
  ∀ (a b : List Byte) (s : State), s.phase = .active → s.mode = .compress → s.ChainInv →
    ∃ t u, exec (.feed a) s = .next t ∧ exec (.feed b) t = .next u ∧ exec (.feed (a ++ b)) s = .next u

/-- R230, R330: in decompress mode, what is decoded does not depend on how the stream is cut into chunks. Only input
that no step will read (after the end or a fault) is accounted differently. -/
def Obligations.DecompressIgnoresChunking : Prop :=
  ∀ (a b : List Byte) (s : State), s.phase = .active → s.mode = .decompress →
    s.AtBoundary → s.TablesInv → s.HeaderInv →
    ∃ t u w, exec (.feed a) s = .next t ∧ exec (.feed b) t = .next u ∧ exec (.feed (a ++ b)) s = .next w ∧
      { u with inq := w.inq, totalIn := w.totalIn, pending := w.pending } = w ∧ (w.phase = .active → u = w)

/-- R263: for every byte sequence, every legal level and every cutting into chunks, the stream the compressor produces
is decoded by the decoder to exactly that sequence with no fault, ending in `DSTATE = DONE` with the same checksum,
provided the cap allows it and both sides have the same window size. -/
def Obligations.DecompressInvertsCompress : Prop :=
  ∀ (s : State) (chunks : List (List Byte)), s.params.Legal → s.level.toNat ≤ 9 →
    ∃ t stream, execAll (.cinit :: chunks.map Instr.feed ++ [.finish]) s = .next t ∧
      t.out = s.out ++ stream ∧ t.phase = .finished ∧
      ∀ (r : State) (pieces : List (List Byte)), r.params.wbits = s.params.wbits → pieces.flatten = stream →
        chunks.flatten.length ≤ r.outLimit.toNat →
        ∃ u, execAll (.dinit :: pieces.map Instr.feed) r = .next u ∧
          u.out = r.out ++ chunks.flatten ∧ u.dstate = .done ∧ u.phase = .done ∧ u.err = none ∧ adler u = adler t
end

