-- ==== Sys2Proof/Laws/Bits.lean ====
section
/-! SUPPORT. Bit fields as lists of stream bits: lengths, and what a read finds of a field that was written. -/

namespace Sys2Proof.Machine

@[simp] theorem length_bitsLSB (v n : Nat) : (bitsLSB v n).length = n := by simp [bitsLSB]

@[simp] theorem length_bitsMSB (c l : Nat) : (bitsMSB c l).length = l := by simp [bitsMSB]

@[simp] theorem length_byteBits (b : Byte) : (byteBits b).length = 8 := by simp [byteBits]

@[simp] theorem length_bytesBits (bs : List Byte) : (bytesBits bs).length = 8 * bs.length := by
  induction bs with
  | nil => rfl
  | cons b bs ih =>
    have h : bytesBits (b :: bs) = byteBits b ++ bytesBits bs := rfl
    rw [h, List.length_append, ih, length_byteBits, List.length_cons]
    omega

theorem bytesBits_append (as bs : List Byte) : bytesBits (as ++ bs) = bytesBits as ++ bytesBits bs :=
  List.flatMap_append

/-- The first stream bit of a field is its bit 0 (R61). -/
theorem bitsLSB_succ (v n : Nat) : bitsLSB v (n + 1) = v.testBit 0 :: bitsLSB (v / 2) n := by
  simp only [bitsLSB, List.range_succ_eq_map, List.map_cons, List.map_map]
  congr 1
  apply List.map_congr_left
  intro k _
  simp [Nat.testBit_succ]

theorem bitsLSB_append (v m n : Nat) : bitsLSB v (m + n) = bitsLSB v m ++ bitsLSB (v / 2 ^ m) n := by
  induction m generalizing v with
  | zero => simp [bitsLSB]
  | succ m ih =>
    rw [show m + 1 + n = (m + n) + 1 by omega, bitsLSB_succ, ih, bitsLSB_succ, Nat.div_div_eq_div_mul, Nat.pow_succ']
    rfl

theorem ofBitsLSB_lt (bits : List Bool) : ofBitsLSB bits < 2 ^ bits.length := by
  induction bits with
  | nil => simp [ofBitsLSB]
  | cons b bs ih =>
    have hb : b.toNat ≤ 1 := Bool.toNat_le b
    simp only [ofBitsLSB, List.length_cons, Nat.pow_succ]
    omega

theorem ofBitsLSB_bitsLSB (v n : Nat) : ofBitsLSB (bitsLSB v n) = v % 2 ^ n := by
  induction n generalizing v with
  | zero => simp [bitsLSB, ofBitsLSB, Nat.mod_one]
  | succ n ih =>
    rw [bitsLSB_succ, ofBitsLSB, ih, Nat.pow_succ', Nat.mod_mul]
    have : (v.testBit 0).toNat = v % 2 := by
      rw [Nat.testBit_zero]
      rcases Nat.mod_two_eq_zero_or_one v with h | h <;> simp [h]
    omega

/-- A read holds exactly where fewer bits are there than it asks for (R124, R128). -/
theorem peekBits_eq_none_iff {n : Nat} {bits : List Bool} : peekBits n bits = none ↔ bits.length < n := by
  unfold peekBits
  split <;> simp_all

/-- A read of a field that stands at the front of the unread bits gives its value (R124). -/
theorem peekBits_bitsLSB_append (v n : Nat) (rest : List Bool) :
    peekBits n (bitsLSB v n ++ rest) = some (v % 2 ^ n) := by
  have h : ¬ (bitsLSB v n ++ rest).length < n := by simp
  rw [peekBits, if_neg h, List.take_left' (length_bitsLSB v n), ofBitsLSB_bitsLSB]

theorem peekBits_lt {n v : Nat} {bits : List Bool} (h : peekBits n bits = some v) : v < 2 ^ n := by
  unfold peekBits at h
  split at h
  · cases h
  · next hn =>
    cases h
    refine lt_of_lt_of_le (ofBitsLSB_lt _) (Nat.pow_le_pow_right (by decide) ?_)
    simp

theorem peekBits_length {n v : Nat} {bits : List Bool} (h : peekBits n bits = some v) : n ≤ bits.length := by
  by_contra hc
  rw [peekBits_eq_none_iff.mpr (by omega)] at h
  cases h

end Sys2Proof.Machine
end

