-- ==== Sys2Proof/Laws/State.lean ====
section
/-! SUPPORT. One lemma per field and per update operation, true by `rfl`: reading a field of an updated state never
needs the update unfolded. -/

namespace Sys2Proof.Machine

/-! ## `commit` -/

@[simp] theorem commit_params (s : State) : (commit s).params = s.params := rfl
@[simp] theorem commit_hostq (s : State) : (commit s).hostq = s.hostq := rfl
@[simp] theorem commit_out (s : State) : (commit s).out = s.out := rfl
@[simp] theorem commit_rdata (s : State) : (commit s).rdata = s.rdata := rfl
@[simp] theorem commit_oacc (s : State) : (commit s).oacc = s.oacc := rfl
@[simp] theorem commit_onb (s : State) : (commit s).onb = s.onb := rfl
@[simp] theorem commit_bitposOut (s : State) : (commit s).bitposOut = s.bitposOut := rfl
@[simp] theorem commit_inq (s : State) : (commit s).inq = s.inq.drop s.cursor := rfl
@[simp] theorem commit_bitposIn (s : State) : (commit s).bitposIn = s.bitposIn + s.cursor := rfl
@[simp] theorem commit_cursor (s : State) : (commit s).cursor = 0 := rfl
@[simp] theorem commit_pendLen (s : State) : (commit s).pendLen = none := rfl
@[simp] theorem commit_la (s : State) : (commit s).la = s.la := rfl
@[simp] theorem commit_win (s : State) : (commit s).win = s.win := rfl
@[simp] theorem commit_wpos (s : State) : (commit s).wpos = s.wpos := rfl
@[simp] theorem commit_whave (s : State) : (commit s).whave = s.whave := rfl
@[simp] theorem commit_wtotal (s : State) : (commit s).wtotal = s.wtotal := rfl
@[simp] theorem commit_head (s : State) : (commit s).head = s.head := rfl
@[simp] theorem commit_prev (s : State) : (commit s).prev = s.prev := rfl
@[simp] theorem commit_effort (s : State) : (commit s).effort = s.effort := rfl
@[simp] theorem commit_tok (s : State) : (commit s).tok = s.tok := rfl
@[simp] theorem commit_blkBytes (s : State) : (commit s).blkBytes = s.blkBytes := rfl
@[simp] theorem commit_estate (s : State) : (commit s).estate = s.estate := rfl
@[simp] theorem commit_finalSent (s : State) : (commit s).finalSent = s.finalSent := rfl
@[simp] theorem commit_dstate (s : State) : (commit s).dstate = s.dstate := rfl
@[simp] theorem commit_bfinal (s : State) : (commit s).bfinal = s.bfinal := rfl
@[simp] theorem commit_rem (s : State) : (commit s).rem = s.rem := rfl
@[simp] theorem commit_nlen (s : State) : (commit s).nlen = s.nlen := rfl
@[simp] theorem commit_ndist (s : State) : (commit s).ndist = s.ndist := rfl
@[simp] theorem commit_ncode (s : State) : (commit s).ncode = s.ncode := rfl
@[simp] theorem commit_idx (s : State) : (commit s).idx = s.idx := rfl
@[simp] theorem commit_cll (s : State) : (commit s).cll = s.cll := rfl
@[simp] theorem commit_lens (s : State) : (commit s).lens = s.lens := rfl
@[simp] theorem commit_clt (s : State) : (commit s).clt = s.clt := rfl
@[simp] theorem commit_lt (s : State) : (commit s).lt = s.lt := rfl
@[simp] theorem commit_dt (s : State) : (commit s).dt = s.dt := rfl
@[simp] theorem commit_s1 (s : State) : (commit s).s1 = s.s1 := rfl
@[simp] theorem commit_s2 (s : State) : (commit s).s2 = s.s2 := rfl
@[simp] theorem commit_totalIn (s : State) : (commit s).totalIn = s.totalIn := rfl
@[simp] theorem commit_totalOut (s : State) : (commit s).totalOut = s.totalOut := rfl
@[simp] theorem commit_level (s : State) : (commit s).level = s.level := rfl
@[simp] theorem commit_outLimit (s : State) : (commit s).outLimit = s.outLimit := rfl
@[simp] theorem commit_verify (s : State) : (commit s).verify = s.verify := rfl
@[simp] theorem commit_ckExpect (s : State) : (commit s).ckExpect = s.ckExpect := rfl
@[simp] theorem commit_mode (s : State) : (commit s).mode = s.mode := rfl
@[simp] theorem commit_phase (s : State) : (commit s).phase = s.phase := rfl
@[simp] theorem commit_trail (s : State) : (commit s).trail = s.trail := rfl
@[simp] theorem commit_pending (s : State) : (commit s).pending = s.pending := rfl
@[simp] theorem commit_err (s : State) : (commit s).err = s.err := rfl
@[simp] theorem commit_errPos (s : State) : (commit s).errPos = s.errPos := rfl

/-! ## `rollback` -/

@[simp] theorem rollback_params (s : State) : (rollback s).params = s.params := rfl
@[simp] theorem rollback_hostq (s : State) : (rollback s).hostq = s.hostq := rfl
@[simp] theorem rollback_out (s : State) : (rollback s).out = s.out := rfl
@[simp] theorem rollback_rdata (s : State) : (rollback s).rdata = s.rdata := rfl
@[simp] theorem rollback_oacc (s : State) : (rollback s).oacc = s.oacc := rfl
@[simp] theorem rollback_onb (s : State) : (rollback s).onb = s.onb := rfl
@[simp] theorem rollback_bitposOut (s : State) : (rollback s).bitposOut = s.bitposOut := rfl
@[simp] theorem rollback_inq (s : State) : (rollback s).inq = s.inq := rfl
@[simp] theorem rollback_bitposIn (s : State) : (rollback s).bitposIn = s.bitposIn := rfl
@[simp] theorem rollback_cursor (s : State) : (rollback s).cursor = 0 := rfl
@[simp] theorem rollback_pendLen (s : State) : (rollback s).pendLen = none := rfl
@[simp] theorem rollback_la (s : State) : (rollback s).la = s.la := rfl
@[simp] theorem rollback_win (s : State) : (rollback s).win = s.win := rfl
@[simp] theorem rollback_wpos (s : State) : (rollback s).wpos = s.wpos := rfl
@[simp] theorem rollback_whave (s : State) : (rollback s).whave = s.whave := rfl
@[simp] theorem rollback_wtotal (s : State) : (rollback s).wtotal = s.wtotal := rfl
@[simp] theorem rollback_head (s : State) : (rollback s).head = s.head := rfl
@[simp] theorem rollback_prev (s : State) : (rollback s).prev = s.prev := rfl
@[simp] theorem rollback_effort (s : State) : (rollback s).effort = s.effort := rfl
@[simp] theorem rollback_tok (s : State) : (rollback s).tok = s.tok := rfl
@[simp] theorem rollback_blkBytes (s : State) : (rollback s).blkBytes = s.blkBytes := rfl
@[simp] theorem rollback_estate (s : State) : (rollback s).estate = s.estate := rfl
@[simp] theorem rollback_finalSent (s : State) : (rollback s).finalSent = s.finalSent := rfl
@[simp] theorem rollback_dstate (s : State) : (rollback s).dstate = s.dstate := rfl
@[simp] theorem rollback_bfinal (s : State) : (rollback s).bfinal = s.bfinal := rfl
@[simp] theorem rollback_rem (s : State) : (rollback s).rem = s.rem := rfl
@[simp] theorem rollback_nlen (s : State) : (rollback s).nlen = s.nlen := rfl
@[simp] theorem rollback_ndist (s : State) : (rollback s).ndist = s.ndist := rfl
@[simp] theorem rollback_ncode (s : State) : (rollback s).ncode = s.ncode := rfl
@[simp] theorem rollback_idx (s : State) : (rollback s).idx = s.idx := rfl
@[simp] theorem rollback_cll (s : State) : (rollback s).cll = s.cll := rfl
@[simp] theorem rollback_lens (s : State) : (rollback s).lens = s.lens := rfl
@[simp] theorem rollback_clt (s : State) : (rollback s).clt = s.clt := rfl
@[simp] theorem rollback_lt (s : State) : (rollback s).lt = s.lt := rfl
@[simp] theorem rollback_dt (s : State) : (rollback s).dt = s.dt := rfl
@[simp] theorem rollback_s1 (s : State) : (rollback s).s1 = s.s1 := rfl
@[simp] theorem rollback_s2 (s : State) : (rollback s).s2 = s.s2 := rfl
@[simp] theorem rollback_totalIn (s : State) : (rollback s).totalIn = s.totalIn := rfl
@[simp] theorem rollback_totalOut (s : State) : (rollback s).totalOut = s.totalOut := rfl
@[simp] theorem rollback_level (s : State) : (rollback s).level = s.level := rfl
@[simp] theorem rollback_outLimit (s : State) : (rollback s).outLimit = s.outLimit := rfl
@[simp] theorem rollback_verify (s : State) : (rollback s).verify = s.verify := rfl
@[simp] theorem rollback_ckExpect (s : State) : (rollback s).ckExpect = s.ckExpect := rfl
@[simp] theorem rollback_mode (s : State) : (rollback s).mode = s.mode := rfl
@[simp] theorem rollback_phase (s : State) : (rollback s).phase = s.phase := rfl
@[simp] theorem rollback_trail (s : State) : (rollback s).trail = s.trail := rfl
@[simp] theorem rollback_pending (s : State) : (rollback s).pending = s.pending := rfl
@[simp] theorem rollback_err (s : State) : (rollback s).err = s.err := rfl
@[simp] theorem rollback_errPos (s : State) : (rollback s).errPos = s.errPos := rfl

/-! ## `advance` -/

@[simp] theorem advance_params (n : Nat) (s : State) : (advance n s).params = s.params := rfl
@[simp] theorem advance_hostq (n : Nat) (s : State) : (advance n s).hostq = s.hostq := rfl
@[simp] theorem advance_out (n : Nat) (s : State) : (advance n s).out = s.out := rfl
@[simp] theorem advance_rdata (n : Nat) (s : State) : (advance n s).rdata = s.rdata := rfl
@[simp] theorem advance_oacc (n : Nat) (s : State) : (advance n s).oacc = s.oacc := rfl
@[simp] theorem advance_onb (n : Nat) (s : State) : (advance n s).onb = s.onb := rfl
@[simp] theorem advance_bitposOut (n : Nat) (s : State) : (advance n s).bitposOut = s.bitposOut := rfl
@[simp] theorem advance_inq (n : Nat) (s : State) : (advance n s).inq = s.inq := rfl
@[simp] theorem advance_bitposIn (n : Nat) (s : State) : (advance n s).bitposIn = s.bitposIn := rfl
@[simp] theorem advance_cursor (n : Nat) (s : State) : (advance n s).cursor = s.cursor + n := rfl
@[simp] theorem advance_pendLen (n : Nat) (s : State) : (advance n s).pendLen = s.pendLen := rfl
@[simp] theorem advance_la (n : Nat) (s : State) : (advance n s).la = s.la := rfl
@[simp] theorem advance_win (n : Nat) (s : State) : (advance n s).win = s.win := rfl
@[simp] theorem advance_wpos (n : Nat) (s : State) : (advance n s).wpos = s.wpos := rfl
@[simp] theorem advance_whave (n : Nat) (s : State) : (advance n s).whave = s.whave := rfl
@[simp] theorem advance_wtotal (n : Nat) (s : State) : (advance n s).wtotal = s.wtotal := rfl
@[simp] theorem advance_head (n : Nat) (s : State) : (advance n s).head = s.head := rfl
@[simp] theorem advance_prev (n : Nat) (s : State) : (advance n s).prev = s.prev := rfl
@[simp] theorem advance_effort (n : Nat) (s : State) : (advance n s).effort = s.effort := rfl
@[simp] theorem advance_tok (n : Nat) (s : State) : (advance n s).tok = s.tok := rfl
@[simp] theorem advance_blkBytes (n : Nat) (s : State) : (advance n s).blkBytes = s.blkBytes := rfl
@[simp] theorem advance_estate (n : Nat) (s : State) : (advance n s).estate = s.estate := rfl
@[simp] theorem advance_finalSent (n : Nat) (s : State) : (advance n s).finalSent = s.finalSent := rfl
@[simp] theorem advance_dstate (n : Nat) (s : State) : (advance n s).dstate = s.dstate := rfl
@[simp] theorem advance_bfinal (n : Nat) (s : State) : (advance n s).bfinal = s.bfinal := rfl
@[simp] theorem advance_rem (n : Nat) (s : State) : (advance n s).rem = s.rem := rfl
@[simp] theorem advance_nlen (n : Nat) (s : State) : (advance n s).nlen = s.nlen := rfl
@[simp] theorem advance_ndist (n : Nat) (s : State) : (advance n s).ndist = s.ndist := rfl
@[simp] theorem advance_ncode (n : Nat) (s : State) : (advance n s).ncode = s.ncode := rfl
@[simp] theorem advance_idx (n : Nat) (s : State) : (advance n s).idx = s.idx := rfl
@[simp] theorem advance_cll (n : Nat) (s : State) : (advance n s).cll = s.cll := rfl
@[simp] theorem advance_lens (n : Nat) (s : State) : (advance n s).lens = s.lens := rfl
@[simp] theorem advance_clt (n : Nat) (s : State) : (advance n s).clt = s.clt := rfl
@[simp] theorem advance_lt (n : Nat) (s : State) : (advance n s).lt = s.lt := rfl
@[simp] theorem advance_dt (n : Nat) (s : State) : (advance n s).dt = s.dt := rfl
@[simp] theorem advance_s1 (n : Nat) (s : State) : (advance n s).s1 = s.s1 := rfl
@[simp] theorem advance_s2 (n : Nat) (s : State) : (advance n s).s2 = s.s2 := rfl
@[simp] theorem advance_totalIn (n : Nat) (s : State) : (advance n s).totalIn = s.totalIn := rfl
@[simp] theorem advance_totalOut (n : Nat) (s : State) : (advance n s).totalOut = s.totalOut := rfl
@[simp] theorem advance_level (n : Nat) (s : State) : (advance n s).level = s.level := rfl
@[simp] theorem advance_outLimit (n : Nat) (s : State) : (advance n s).outLimit = s.outLimit := rfl
@[simp] theorem advance_verify (n : Nat) (s : State) : (advance n s).verify = s.verify := rfl
@[simp] theorem advance_ckExpect (n : Nat) (s : State) : (advance n s).ckExpect = s.ckExpect := rfl
@[simp] theorem advance_mode (n : Nat) (s : State) : (advance n s).mode = s.mode := rfl
@[simp] theorem advance_phase (n : Nat) (s : State) : (advance n s).phase = s.phase := rfl
@[simp] theorem advance_trail (n : Nat) (s : State) : (advance n s).trail = s.trail := rfl
@[simp] theorem advance_pending (n : Nat) (s : State) : (advance n s).pending = s.pending := rfl
@[simp] theorem advance_err (n : Nat) (s : State) : (advance n s).err = s.err := rfl
@[simp] theorem advance_errPos (n : Nat) (s : State) : (advance n s).errPos = s.errPos := rfl

/-! ## `raise` -/

@[simp] theorem raise_params (c : Cause) (s : State) : (raise c s).params = s.params := rfl
@[simp] theorem raise_hostq (c : Cause) (s : State) : (raise c s).hostq = s.hostq := rfl
@[simp] theorem raise_out (c : Cause) (s : State) : (raise c s).out = s.out := rfl
@[simp] theorem raise_rdata (c : Cause) (s : State) : (raise c s).rdata = s.rdata := rfl
@[simp] theorem raise_oacc (c : Cause) (s : State) : (raise c s).oacc = s.oacc := rfl
@[simp] theorem raise_onb (c : Cause) (s : State) : (raise c s).onb = s.onb := rfl
@[simp] theorem raise_bitposOut (c : Cause) (s : State) : (raise c s).bitposOut = s.bitposOut := rfl
@[simp] theorem raise_inq (c : Cause) (s : State) : (raise c s).inq = s.inq := rfl
@[simp] theorem raise_bitposIn (c : Cause) (s : State) : (raise c s).bitposIn = s.bitposIn := rfl
@[simp] theorem raise_cursor (c : Cause) (s : State) : (raise c s).cursor = 0 := rfl
@[simp] theorem raise_pendLen (c : Cause) (s : State) : (raise c s).pendLen = none := rfl
@[simp] theorem raise_la (c : Cause) (s : State) : (raise c s).la = s.la := rfl
@[simp] theorem raise_win (c : Cause) (s : State) : (raise c s).win = s.win := rfl
@[simp] theorem raise_wpos (c : Cause) (s : State) : (raise c s).wpos = s.wpos := rfl
@[simp] theorem raise_whave (c : Cause) (s : State) : (raise c s).whave = s.whave := rfl
@[simp] theorem raise_wtotal (c : Cause) (s : State) : (raise c s).wtotal = s.wtotal := rfl
@[simp] theorem raise_head (c : Cause) (s : State) : (raise c s).head = s.head := rfl
@[simp] theorem raise_prev (c : Cause) (s : State) : (raise c s).prev = s.prev := rfl
@[simp] theorem raise_effort (c : Cause) (s : State) : (raise c s).effort = s.effort := rfl
@[simp] theorem raise_tok (c : Cause) (s : State) : (raise c s).tok = s.tok := rfl
@[simp] theorem raise_blkBytes (c : Cause) (s : State) : (raise c s).blkBytes = s.blkBytes := rfl
@[simp] theorem raise_estate (c : Cause) (s : State) : (raise c s).estate = s.estate := rfl
@[simp] theorem raise_finalSent (c : Cause) (s : State) : (raise c s).finalSent = s.finalSent := rfl
@[simp] theorem raise_dstate (c : Cause) (s : State) : (raise c s).dstate = s.dstate := rfl
@[simp] theorem raise_bfinal (c : Cause) (s : State) : (raise c s).bfinal = s.bfinal := rfl
@[simp] theorem raise_rem (c : Cause) (s : State) : (raise c s).rem = s.rem := rfl
@[simp] theorem raise_nlen (c : Cause) (s : State) : (raise c s).nlen = s.nlen := rfl
@[simp] theorem raise_ndist (c : Cause) (s : State) : (raise c s).ndist = s.ndist := rfl
@[simp] theorem raise_ncode (c : Cause) (s : State) : (raise c s).ncode = s.ncode := rfl
@[simp] theorem raise_idx (c : Cause) (s : State) : (raise c s).idx = s.idx := rfl
@[simp] theorem raise_cll (c : Cause) (s : State) : (raise c s).cll = s.cll := rfl
@[simp] theorem raise_lens (c : Cause) (s : State) : (raise c s).lens = s.lens := rfl
@[simp] theorem raise_clt (c : Cause) (s : State) : (raise c s).clt = s.clt := rfl
@[simp] theorem raise_lt (c : Cause) (s : State) : (raise c s).lt = s.lt := rfl
@[simp] theorem raise_dt (c : Cause) (s : State) : (raise c s).dt = s.dt := rfl
@[simp] theorem raise_s1 (c : Cause) (s : State) : (raise c s).s1 = s.s1 := rfl
@[simp] theorem raise_s2 (c : Cause) (s : State) : (raise c s).s2 = s.s2 := rfl
@[simp] theorem raise_totalIn (c : Cause) (s : State) : (raise c s).totalIn = s.totalIn := rfl
@[simp] theorem raise_totalOut (c : Cause) (s : State) : (raise c s).totalOut = s.totalOut := rfl
@[simp] theorem raise_level (c : Cause) (s : State) : (raise c s).level = s.level := rfl
@[simp] theorem raise_outLimit (c : Cause) (s : State) : (raise c s).outLimit = s.outLimit := rfl
@[simp] theorem raise_verify (c : Cause) (s : State) : (raise c s).verify = s.verify := rfl
@[simp] theorem raise_ckExpect (c : Cause) (s : State) : (raise c s).ckExpect = s.ckExpect := rfl
@[simp] theorem raise_mode (c : Cause) (s : State) : (raise c s).mode = s.mode := rfl
@[simp] theorem raise_phase (c : Cause) (s : State) : (raise c s).phase = .fault := rfl
@[simp] theorem raise_trail (c : Cause) (s : State) : (raise c s).trail = s.trail := rfl
@[simp] theorem raise_pending (c : Cause) (s : State) : (raise c s).pending = s.pending := rfl
@[simp] theorem raise_err (c : Cause) (s : State) : (raise c s).err = some c := rfl
@[simp] theorem raise_errPos (c : Cause) (s : State) : (raise c s).errPos = if c.hasPos then s.bitposIn else 0 := rfl

/-! ## `endCommand` -/

@[simp] theorem endCommand_params (s : State) : (endCommand s).params = s.params := rfl
@[simp] theorem endCommand_hostq (s : State) : (endCommand s).hostq = s.hostq := rfl
@[simp] theorem endCommand_out (s : State) : (endCommand s).out = s.out := rfl
@[simp] theorem endCommand_rdata (s : State) : (endCommand s).rdata = s.rdata := rfl
@[simp] theorem endCommand_oacc (s : State) : (endCommand s).oacc = s.oacc := rfl
@[simp] theorem endCommand_onb (s : State) : (endCommand s).onb = s.onb := rfl
@[simp] theorem endCommand_bitposOut (s : State) : (endCommand s).bitposOut = s.bitposOut := rfl
@[simp] theorem endCommand_inq (s : State) : (endCommand s).inq = s.inq := rfl
@[simp] theorem endCommand_bitposIn (s : State) : (endCommand s).bitposIn = s.bitposIn := rfl
@[simp] theorem endCommand_cursor (s : State) : (endCommand s).cursor = s.cursor := rfl
@[simp] theorem endCommand_pendLen (s : State) : (endCommand s).pendLen = s.pendLen := rfl
@[simp] theorem endCommand_la (s : State) : (endCommand s).la = s.la := rfl
@[simp] theorem endCommand_win (s : State) : (endCommand s).win = s.win := rfl
@[simp] theorem endCommand_wpos (s : State) : (endCommand s).wpos = s.wpos := rfl
@[simp] theorem endCommand_whave (s : State) : (endCommand s).whave = s.whave := rfl
@[simp] theorem endCommand_wtotal (s : State) : (endCommand s).wtotal = s.wtotal := rfl
@[simp] theorem endCommand_head (s : State) : (endCommand s).head = s.head := rfl
@[simp] theorem endCommand_prev (s : State) : (endCommand s).prev = s.prev := rfl
@[simp] theorem endCommand_effort (s : State) : (endCommand s).effort = s.effort := rfl
@[simp] theorem endCommand_tok (s : State) : (endCommand s).tok = s.tok := rfl
@[simp] theorem endCommand_blkBytes (s : State) : (endCommand s).blkBytes = s.blkBytes := rfl
@[simp] theorem endCommand_estate (s : State) : (endCommand s).estate = s.estate := rfl
@[simp] theorem endCommand_finalSent (s : State) : (endCommand s).finalSent = s.finalSent := rfl
@[simp] theorem endCommand_dstate (s : State) : (endCommand s).dstate = s.dstate := rfl
@[simp] theorem endCommand_bfinal (s : State) : (endCommand s).bfinal = s.bfinal := rfl
@[simp] theorem endCommand_rem (s : State) : (endCommand s).rem = s.rem := rfl
@[simp] theorem endCommand_nlen (s : State) : (endCommand s).nlen = s.nlen := rfl
@[simp] theorem endCommand_ndist (s : State) : (endCommand s).ndist = s.ndist := rfl
@[simp] theorem endCommand_ncode (s : State) : (endCommand s).ncode = s.ncode := rfl
@[simp] theorem endCommand_idx (s : State) : (endCommand s).idx = s.idx := rfl
@[simp] theorem endCommand_cll (s : State) : (endCommand s).cll = s.cll := rfl
@[simp] theorem endCommand_lens (s : State) : (endCommand s).lens = s.lens := rfl
@[simp] theorem endCommand_clt (s : State) : (endCommand s).clt = s.clt := rfl
@[simp] theorem endCommand_lt (s : State) : (endCommand s).lt = s.lt := rfl
@[simp] theorem endCommand_dt (s : State) : (endCommand s).dt = s.dt := rfl
@[simp] theorem endCommand_s1 (s : State) : (endCommand s).s1 = s.s1 := rfl
@[simp] theorem endCommand_s2 (s : State) : (endCommand s).s2 = s.s2 := rfl
@[simp] theorem endCommand_totalIn (s : State) : (endCommand s).totalIn = s.totalIn := rfl
@[simp] theorem endCommand_totalOut (s : State) : (endCommand s).totalOut = s.totalOut := rfl
@[simp] theorem endCommand_level (s : State) : (endCommand s).level = s.level := rfl
@[simp] theorem endCommand_outLimit (s : State) : (endCommand s).outLimit = s.outLimit := rfl
@[simp] theorem endCommand_verify (s : State) : (endCommand s).verify = s.verify := rfl
@[simp] theorem endCommand_ckExpect (s : State) : (endCommand s).ckExpect = s.ckExpect := rfl
@[simp] theorem endCommand_mode (s : State) : (endCommand s).mode = s.mode := rfl
@[simp] theorem endCommand_phase (s : State) : (endCommand s).phase = s.phase := rfl
@[simp] theorem endCommand_trail (s : State) : (endCommand s).trail = s.trail := rfl
@[simp] theorem endCommand_pending (s : State) : (endCommand s).pending = pendingNow s := rfl
@[simp] theorem endCommand_err (s : State) : (endCommand s).err = s.err := rfl
@[simp] theorem endCommand_errPos (s : State) : (endCommand s).errPos = s.errPos := rfl

/-! ## `endOfBlock` -/

@[simp] theorem endOfBlock_params (s : State) : (endOfBlock s).params = s.params := rfl
@[simp] theorem endOfBlock_hostq (s : State) : (endOfBlock s).hostq = s.hostq := rfl
@[simp] theorem endOfBlock_out (s : State) : (endOfBlock s).out = s.out := rfl
@[simp] theorem endOfBlock_rdata (s : State) : (endOfBlock s).rdata = s.rdata := rfl
@[simp] theorem endOfBlock_oacc (s : State) : (endOfBlock s).oacc = s.oacc := rfl
@[simp] theorem endOfBlock_onb (s : State) : (endOfBlock s).onb = s.onb := rfl
@[simp] theorem endOfBlock_bitposOut (s : State) : (endOfBlock s).bitposOut = s.bitposOut := rfl
@[simp] theorem endOfBlock_inq (s : State) : (endOfBlock s).inq = s.inq := rfl
@[simp] theorem endOfBlock_bitposIn (s : State) : (endOfBlock s).bitposIn = s.bitposIn := rfl
@[simp] theorem endOfBlock_cursor (s : State) : (endOfBlock s).cursor = s.cursor := rfl
@[simp] theorem endOfBlock_pendLen (s : State) : (endOfBlock s).pendLen = s.pendLen := rfl
@[simp] theorem endOfBlock_la (s : State) : (endOfBlock s).la = s.la := rfl
@[simp] theorem endOfBlock_win (s : State) : (endOfBlock s).win = s.win := rfl
@[simp] theorem endOfBlock_wpos (s : State) : (endOfBlock s).wpos = s.wpos := rfl
@[simp] theorem endOfBlock_whave (s : State) : (endOfBlock s).whave = s.whave := rfl
@[simp] theorem endOfBlock_wtotal (s : State) : (endOfBlock s).wtotal = s.wtotal := rfl
@[simp] theorem endOfBlock_head (s : State) : (endOfBlock s).head = s.head := rfl
@[simp] theorem endOfBlock_prev (s : State) : (endOfBlock s).prev = s.prev := rfl
@[simp] theorem endOfBlock_effort (s : State) : (endOfBlock s).effort = s.effort := rfl
@[simp] theorem endOfBlock_tok (s : State) : (endOfBlock s).tok = s.tok := rfl
@[simp] theorem endOfBlock_blkBytes (s : State) : (endOfBlock s).blkBytes = s.blkBytes := rfl
@[simp] theorem endOfBlock_estate (s : State) : (endOfBlock s).estate = s.estate := rfl
@[simp] theorem endOfBlock_finalSent (s : State) : (endOfBlock s).finalSent = s.finalSent := rfl
@[simp] theorem endOfBlock_dstate (s : State) : (endOfBlock s).dstate = if s.bfinal then .done else .hdr := rfl
@[simp] theorem endOfBlock_bfinal (s : State) : (endOfBlock s).bfinal = s.bfinal := rfl
@[simp] theorem endOfBlock_rem (s : State) : (endOfBlock s).rem = s.rem := rfl
@[simp] theorem endOfBlock_nlen (s : State) : (endOfBlock s).nlen = s.nlen := rfl
@[simp] theorem endOfBlock_ndist (s : State) : (endOfBlock s).ndist = s.ndist := rfl
@[simp] theorem endOfBlock_ncode (s : State) : (endOfBlock s).ncode = s.ncode := rfl
@[simp] theorem endOfBlock_idx (s : State) : (endOfBlock s).idx = s.idx := rfl
@[simp] theorem endOfBlock_cll (s : State) : (endOfBlock s).cll = s.cll := rfl
@[simp] theorem endOfBlock_lens (s : State) : (endOfBlock s).lens = s.lens := rfl
@[simp] theorem endOfBlock_clt (s : State) : (endOfBlock s).clt = s.clt := rfl
@[simp] theorem endOfBlock_lt (s : State) : (endOfBlock s).lt = s.lt := rfl
@[simp] theorem endOfBlock_dt (s : State) : (endOfBlock s).dt = s.dt := rfl
@[simp] theorem endOfBlock_s1 (s : State) : (endOfBlock s).s1 = s.s1 := rfl
@[simp] theorem endOfBlock_s2 (s : State) : (endOfBlock s).s2 = s.s2 := rfl
@[simp] theorem endOfBlock_totalIn (s : State) : (endOfBlock s).totalIn = s.totalIn := rfl
@[simp] theorem endOfBlock_totalOut (s : State) : (endOfBlock s).totalOut = s.totalOut := rfl
@[simp] theorem endOfBlock_level (s : State) : (endOfBlock s).level = s.level := rfl
@[simp] theorem endOfBlock_outLimit (s : State) : (endOfBlock s).outLimit = s.outLimit := rfl
@[simp] theorem endOfBlock_verify (s : State) : (endOfBlock s).verify = s.verify := rfl
@[simp] theorem endOfBlock_ckExpect (s : State) : (endOfBlock s).ckExpect = s.ckExpect := rfl
@[simp] theorem endOfBlock_mode (s : State) : (endOfBlock s).mode = s.mode := rfl
@[simp] theorem endOfBlock_phase (s : State) : (endOfBlock s).phase = s.phase := rfl
@[simp] theorem endOfBlock_trail (s : State) : (endOfBlock s).trail = s.trail := rfl
@[simp] theorem endOfBlock_pending (s : State) : (endOfBlock s).pending = s.pending := rfl
@[simp] theorem endOfBlock_err (s : State) : (endOfBlock s).err = s.err := rfl
@[simp] theorem endOfBlock_errPos (s : State) : (endOfBlock s).errPos = s.errPos := rfl

/-! ## `enterBlock` -/

@[simp] theorem enterBlock_params (final : Bool) (next : DState) (s : State) : (enterBlock final next s).params = s.params := rfl
@[simp] theorem enterBlock_hostq (final : Bool) (next : DState) (s : State) : (enterBlock final next s).hostq = s.hostq := rfl
@[simp] theorem enterBlock_out (final : Bool) (next : DState) (s : State) : (enterBlock final next s).out = s.out := rfl
@[simp] theorem enterBlock_rdata (final : Bool) (next : DState) (s : State) : (enterBlock final next s).rdata = s.rdata := rfl
@[simp] theorem enterBlock_oacc (final : Bool) (next : DState) (s : State) : (enterBlock final next s).oacc = s.oacc := rfl
@[simp] theorem enterBlock_onb (final : Bool) (next : DState) (s : State) : (enterBlock final next s).onb = s.onb := rfl
@[simp] theorem enterBlock_bitposOut (final : Bool) (next : DState) (s : State) : (enterBlock final next s).bitposOut = s.bitposOut := rfl
@[simp] theorem enterBlock_inq (final : Bool) (next : DState) (s : State) : (enterBlock final next s).inq = s.inq.drop s.cursor := rfl
@[simp] theorem enterBlock_bitposIn (final : Bool) (next : DState) (s : State) : (enterBlock final next s).bitposIn = s.bitposIn + s.cursor := rfl
@[simp] theorem enterBlock_cursor (final : Bool) (next : DState) (s : State) : (enterBlock final next s).cursor = 0 := rfl
@[simp] theorem enterBlock_pendLen (final : Bool) (next : DState) (s : State) : (enterBlock final next s).pendLen = none := rfl
@[simp] theorem enterBlock_la (final : Bool) (next : DState) (s : State) : (enterBlock final next s).la = s.la := rfl
@[simp] theorem enterBlock_win (final : Bool) (next : DState) (s : State) : (enterBlock final next s).win = s.win := rfl
@[simp] theorem enterBlock_wpos (final : Bool) (next : DState) (s : State) : (enterBlock final next s).wpos = s.wpos := rfl
@[simp] theorem enterBlock_whave (final : Bool) (next : DState) (s : State) : (enterBlock final next s).whave = s.whave := rfl
@[simp] theorem enterBlock_wtotal (final : Bool) (next : DState) (s : State) : (enterBlock final next s).wtotal = s.wtotal := rfl
@[simp] theorem enterBlock_head (final : Bool) (next : DState) (s : State) : (enterBlock final next s).head = s.head := rfl
@[simp] theorem enterBlock_prev (final : Bool) (next : DState) (s : State) : (enterBlock final next s).prev = s.prev := rfl
@[simp] theorem enterBlock_effort (final : Bool) (next : DState) (s : State) : (enterBlock final next s).effort = s.effort := rfl
@[simp] theorem enterBlock_tok (final : Bool) (next : DState) (s : State) : (enterBlock final next s).tok = s.tok := rfl
@[simp] theorem enterBlock_blkBytes (final : Bool) (next : DState) (s : State) : (enterBlock final next s).blkBytes = s.blkBytes := rfl
@[simp] theorem enterBlock_estate (final : Bool) (next : DState) (s : State) : (enterBlock final next s).estate = s.estate := rfl
@[simp] theorem enterBlock_finalSent (final : Bool) (next : DState) (s : State) : (enterBlock final next s).finalSent = s.finalSent := rfl
@[simp] theorem enterBlock_dstate (final : Bool) (next : DState) (s : State) : (enterBlock final next s).dstate = next := rfl
@[simp] theorem enterBlock_bfinal (final : Bool) (next : DState) (s : State) : (enterBlock final next s).bfinal = final := rfl
@[simp] theorem enterBlock_rem (final : Bool) (next : DState) (s : State) : (enterBlock final next s).rem = s.rem := rfl
@[simp] theorem enterBlock_nlen (final : Bool) (next : DState) (s : State) : (enterBlock final next s).nlen = s.nlen := rfl
@[simp] theorem enterBlock_ndist (final : Bool) (next : DState) (s : State) : (enterBlock final next s).ndist = s.ndist := rfl
@[simp] theorem enterBlock_ncode (final : Bool) (next : DState) (s : State) : (enterBlock final next s).ncode = s.ncode := rfl
@[simp] theorem enterBlock_idx (final : Bool) (next : DState) (s : State) : (enterBlock final next s).idx = s.idx := rfl
@[simp] theorem enterBlock_cll (final : Bool) (next : DState) (s : State) : (enterBlock final next s).cll = s.cll := rfl
@[simp] theorem enterBlock_lens (final : Bool) (next : DState) (s : State) : (enterBlock final next s).lens = s.lens := rfl
@[simp] theorem enterBlock_clt (final : Bool) (next : DState) (s : State) : (enterBlock final next s).clt = s.clt := rfl
@[simp] theorem enterBlock_lt (final : Bool) (next : DState) (s : State) : (enterBlock final next s).lt = s.lt := rfl
@[simp] theorem enterBlock_dt (final : Bool) (next : DState) (s : State) : (enterBlock final next s).dt = s.dt := rfl
@[simp] theorem enterBlock_s1 (final : Bool) (next : DState) (s : State) : (enterBlock final next s).s1 = s.s1 := rfl
@[simp] theorem enterBlock_s2 (final : Bool) (next : DState) (s : State) : (enterBlock final next s).s2 = s.s2 := rfl
@[simp] theorem enterBlock_totalIn (final : Bool) (next : DState) (s : State) : (enterBlock final next s).totalIn = s.totalIn := rfl
@[simp] theorem enterBlock_totalOut (final : Bool) (next : DState) (s : State) : (enterBlock final next s).totalOut = s.totalOut := rfl
@[simp] theorem enterBlock_level (final : Bool) (next : DState) (s : State) : (enterBlock final next s).level = s.level := rfl
@[simp] theorem enterBlock_outLimit (final : Bool) (next : DState) (s : State) : (enterBlock final next s).outLimit = s.outLimit := rfl
@[simp] theorem enterBlock_verify (final : Bool) (next : DState) (s : State) : (enterBlock final next s).verify = s.verify := rfl
@[simp] theorem enterBlock_ckExpect (final : Bool) (next : DState) (s : State) : (enterBlock final next s).ckExpect = s.ckExpect := rfl
@[simp] theorem enterBlock_mode (final : Bool) (next : DState) (s : State) : (enterBlock final next s).mode = s.mode := rfl
@[simp] theorem enterBlock_phase (final : Bool) (next : DState) (s : State) : (enterBlock final next s).phase = s.phase := rfl
@[simp] theorem enterBlock_trail (final : Bool) (next : DState) (s : State) : (enterBlock final next s).trail = s.trail := rfl
@[simp] theorem enterBlock_pending (final : Bool) (next : DState) (s : State) : (enterBlock final next s).pending = s.pending := rfl
@[simp] theorem enterBlock_err (final : Bool) (next : DState) (s : State) : (enterBlock final next s).err = s.err := rfl
@[simp] theorem enterBlock_errPos (final : Bool) (next : DState) (s : State) : (enterBlock final next s).errPos = s.errPos := rfl

/-! ## `matchLengthHalf` -/

@[simp] theorem matchLengthHalf_params (i : Nat) (x : BitVec 5) (s : State) : (matchLengthHalf i x s).params = s.params := rfl
@[simp] theorem matchLengthHalf_hostq (i : Nat) (x : BitVec 5) (s : State) : (matchLengthHalf i x s).hostq = s.hostq := rfl
@[simp] theorem matchLengthHalf_out (i : Nat) (x : BitVec 5) (s : State) : (matchLengthHalf i x s).out = s.out := rfl
@[simp] theorem matchLengthHalf_rdata (i : Nat) (x : BitVec 5) (s : State) : (matchLengthHalf i x s).rdata = s.rdata := rfl
@[simp] theorem matchLengthHalf_oacc (i : Nat) (x : BitVec 5) (s : State) : (matchLengthHalf i x s).oacc = s.oacc := rfl
@[simp] theorem matchLengthHalf_onb (i : Nat) (x : BitVec 5) (s : State) : (matchLengthHalf i x s).onb = s.onb := rfl
@[simp] theorem matchLengthHalf_bitposOut (i : Nat) (x : BitVec 5) (s : State) : (matchLengthHalf i x s).bitposOut = s.bitposOut := rfl
@[simp] theorem matchLengthHalf_inq (i : Nat) (x : BitVec 5) (s : State) : (matchLengthHalf i x s).inq = s.inq := rfl
@[simp] theorem matchLengthHalf_bitposIn (i : Nat) (x : BitVec 5) (s : State) : (matchLengthHalf i x s).bitposIn = s.bitposIn := rfl
@[simp] theorem matchLengthHalf_cursor (i : Nat) (x : BitVec 5) (s : State) : (matchLengthHalf i x s).cursor = s.cursor := rfl
@[simp] theorem matchLengthHalf_pendLen (i : Nat) (x : BitVec 5) (s : State) : (matchLengthHalf i x s).pendLen = some (lengthOf i x.toNat) := rfl
@[simp] theorem matchLengthHalf_la (i : Nat) (x : BitVec 5) (s : State) : (matchLengthHalf i x s).la = s.la := rfl
@[simp] theorem matchLengthHalf_win (i : Nat) (x : BitVec 5) (s : State) : (matchLengthHalf i x s).win = s.win := rfl
@[simp] theorem matchLengthHalf_wpos (i : Nat) (x : BitVec 5) (s : State) : (matchLengthHalf i x s).wpos = s.wpos := rfl
@[simp] theorem matchLengthHalf_whave (i : Nat) (x : BitVec 5) (s : State) : (matchLengthHalf i x s).whave = s.whave := rfl
@[simp] theorem matchLengthHalf_wtotal (i : Nat) (x : BitVec 5) (s : State) : (matchLengthHalf i x s).wtotal = s.wtotal := rfl
@[simp] theorem matchLengthHalf_head (i : Nat) (x : BitVec 5) (s : State) : (matchLengthHalf i x s).head = s.head := rfl
@[simp] theorem matchLengthHalf_prev (i : Nat) (x : BitVec 5) (s : State) : (matchLengthHalf i x s).prev = s.prev := rfl
@[simp] theorem matchLengthHalf_effort (i : Nat) (x : BitVec 5) (s : State) : (matchLengthHalf i x s).effort = s.effort := rfl
@[simp] theorem matchLengthHalf_tok (i : Nat) (x : BitVec 5) (s : State) : (matchLengthHalf i x s).tok = s.tok := rfl
@[simp] theorem matchLengthHalf_blkBytes (i : Nat) (x : BitVec 5) (s : State) : (matchLengthHalf i x s).blkBytes = s.blkBytes := rfl
@[simp] theorem matchLengthHalf_estate (i : Nat) (x : BitVec 5) (s : State) : (matchLengthHalf i x s).estate = s.estate := rfl
@[simp] theorem matchLengthHalf_finalSent (i : Nat) (x : BitVec 5) (s : State) : (matchLengthHalf i x s).finalSent = s.finalSent := rfl
@[simp] theorem matchLengthHalf_dstate (i : Nat) (x : BitVec 5) (s : State) : (matchLengthHalf i x s).dstate = s.dstate := rfl
@[simp] theorem matchLengthHalf_bfinal (i : Nat) (x : BitVec 5) (s : State) : (matchLengthHalf i x s).bfinal = s.bfinal := rfl
@[simp] theorem matchLengthHalf_rem (i : Nat) (x : BitVec 5) (s : State) : (matchLengthHalf i x s).rem = s.rem := rfl
@[simp] theorem matchLengthHalf_nlen (i : Nat) (x : BitVec 5) (s : State) : (matchLengthHalf i x s).nlen = s.nlen := rfl
@[simp] theorem matchLengthHalf_ndist (i : Nat) (x : BitVec 5) (s : State) : (matchLengthHalf i x s).ndist = s.ndist := rfl
@[simp] theorem matchLengthHalf_ncode (i : Nat) (x : BitVec 5) (s : State) : (matchLengthHalf i x s).ncode = s.ncode := rfl
@[simp] theorem matchLengthHalf_idx (i : Nat) (x : BitVec 5) (s : State) : (matchLengthHalf i x s).idx = s.idx := rfl
@[simp] theorem matchLengthHalf_cll (i : Nat) (x : BitVec 5) (s : State) : (matchLengthHalf i x s).cll = s.cll := rfl
@[simp] theorem matchLengthHalf_lens (i : Nat) (x : BitVec 5) (s : State) : (matchLengthHalf i x s).lens = s.lens := rfl
@[simp] theorem matchLengthHalf_clt (i : Nat) (x : BitVec 5) (s : State) : (matchLengthHalf i x s).clt = s.clt := rfl
@[simp] theorem matchLengthHalf_lt (i : Nat) (x : BitVec 5) (s : State) : (matchLengthHalf i x s).lt = s.lt := rfl
@[simp] theorem matchLengthHalf_dt (i : Nat) (x : BitVec 5) (s : State) : (matchLengthHalf i x s).dt = s.dt := rfl
@[simp] theorem matchLengthHalf_s1 (i : Nat) (x : BitVec 5) (s : State) : (matchLengthHalf i x s).s1 = s.s1 := rfl
@[simp] theorem matchLengthHalf_s2 (i : Nat) (x : BitVec 5) (s : State) : (matchLengthHalf i x s).s2 = s.s2 := rfl
@[simp] theorem matchLengthHalf_totalIn (i : Nat) (x : BitVec 5) (s : State) : (matchLengthHalf i x s).totalIn = s.totalIn := rfl
@[simp] theorem matchLengthHalf_totalOut (i : Nat) (x : BitVec 5) (s : State) : (matchLengthHalf i x s).totalOut = s.totalOut := rfl
@[simp] theorem matchLengthHalf_level (i : Nat) (x : BitVec 5) (s : State) : (matchLengthHalf i x s).level = s.level := rfl
@[simp] theorem matchLengthHalf_outLimit (i : Nat) (x : BitVec 5) (s : State) : (matchLengthHalf i x s).outLimit = s.outLimit := rfl
@[simp] theorem matchLengthHalf_verify (i : Nat) (x : BitVec 5) (s : State) : (matchLengthHalf i x s).verify = s.verify := rfl
@[simp] theorem matchLengthHalf_ckExpect (i : Nat) (x : BitVec 5) (s : State) : (matchLengthHalf i x s).ckExpect = s.ckExpect := rfl
@[simp] theorem matchLengthHalf_mode (i : Nat) (x : BitVec 5) (s : State) : (matchLengthHalf i x s).mode = s.mode := rfl
@[simp] theorem matchLengthHalf_phase (i : Nat) (x : BitVec 5) (s : State) : (matchLengthHalf i x s).phase = s.phase := rfl
@[simp] theorem matchLengthHalf_trail (i : Nat) (x : BitVec 5) (s : State) : (matchLengthHalf i x s).trail = s.trail := rfl
@[simp] theorem matchLengthHalf_pending (i : Nat) (x : BitVec 5) (s : State) : (matchLengthHalf i x s).pending = s.pending := rfl
@[simp] theorem matchLengthHalf_err (i : Nat) (x : BitVec 5) (s : State) : (matchLengthHalf i x s).err = s.err := rfl
@[simp] theorem matchLengthHalf_errPos (i : Nat) (x : BitVec 5) (s : State) : (matchLengthHalf i x s).errPos = s.errPos := rfl

/-! ## `closeBlock` -/

@[simp] theorem closeBlock_params (s : State) : (closeBlock s).params = s.params := rfl
@[simp] theorem closeBlock_hostq (s : State) : (closeBlock s).hostq = s.hostq := rfl
@[simp] theorem closeBlock_out (s : State) : (closeBlock s).out = s.out := rfl
@[simp] theorem closeBlock_rdata (s : State) : (closeBlock s).rdata = s.rdata := rfl
@[simp] theorem closeBlock_oacc (s : State) : (closeBlock s).oacc = s.oacc := rfl
@[simp] theorem closeBlock_onb (s : State) : (closeBlock s).onb = s.onb := rfl
@[simp] theorem closeBlock_bitposOut (s : State) : (closeBlock s).bitposOut = s.bitposOut := rfl
@[simp] theorem closeBlock_inq (s : State) : (closeBlock s).inq = s.inq := rfl
@[simp] theorem closeBlock_bitposIn (s : State) : (closeBlock s).bitposIn = s.bitposIn := rfl
@[simp] theorem closeBlock_cursor (s : State) : (closeBlock s).cursor = s.cursor := rfl
@[simp] theorem closeBlock_pendLen (s : State) : (closeBlock s).pendLen = s.pendLen := rfl
@[simp] theorem closeBlock_la (s : State) : (closeBlock s).la = s.la := rfl
@[simp] theorem closeBlock_win (s : State) : (closeBlock s).win = s.win := rfl
@[simp] theorem closeBlock_wpos (s : State) : (closeBlock s).wpos = s.wpos := rfl
@[simp] theorem closeBlock_whave (s : State) : (closeBlock s).whave = s.whave := rfl
@[simp] theorem closeBlock_wtotal (s : State) : (closeBlock s).wtotal = s.wtotal := rfl
@[simp] theorem closeBlock_head (s : State) : (closeBlock s).head = s.head := rfl
@[simp] theorem closeBlock_prev (s : State) : (closeBlock s).prev = s.prev := rfl
@[simp] theorem closeBlock_effort (s : State) : (closeBlock s).effort = s.effort := rfl
@[simp] theorem closeBlock_tok (s : State) : (closeBlock s).tok = [] := rfl
@[simp] theorem closeBlock_blkBytes (s : State) : (closeBlock s).blkBytes = 0 := rfl
@[simp] theorem closeBlock_estate (s : State) : (closeBlock s).estate = .accumulating := rfl
@[simp] theorem closeBlock_finalSent (s : State) : (closeBlock s).finalSent = s.finalSent := rfl
@[simp] theorem closeBlock_dstate (s : State) : (closeBlock s).dstate = s.dstate := rfl
@[simp] theorem closeBlock_bfinal (s : State) : (closeBlock s).bfinal = s.bfinal := rfl
@[simp] theorem closeBlock_rem (s : State) : (closeBlock s).rem = s.rem := rfl
@[simp] theorem closeBlock_nlen (s : State) : (closeBlock s).nlen = s.nlen := rfl
@[simp] theorem closeBlock_ndist (s : State) : (closeBlock s).ndist = s.ndist := rfl
@[simp] theorem closeBlock_ncode (s : State) : (closeBlock s).ncode = s.ncode := rfl
@[simp] theorem closeBlock_idx (s : State) : (closeBlock s).idx = s.idx := rfl
@[simp] theorem closeBlock_cll (s : State) : (closeBlock s).cll = s.cll := rfl
@[simp] theorem closeBlock_lens (s : State) : (closeBlock s).lens = s.lens := rfl
@[simp] theorem closeBlock_clt (s : State) : (closeBlock s).clt = s.clt := rfl
@[simp] theorem closeBlock_lt (s : State) : (closeBlock s).lt = s.lt := rfl
@[simp] theorem closeBlock_dt (s : State) : (closeBlock s).dt = s.dt := rfl
@[simp] theorem closeBlock_s1 (s : State) : (closeBlock s).s1 = s.s1 := rfl
@[simp] theorem closeBlock_s2 (s : State) : (closeBlock s).s2 = s.s2 := rfl
@[simp] theorem closeBlock_totalIn (s : State) : (closeBlock s).totalIn = s.totalIn := rfl
@[simp] theorem closeBlock_totalOut (s : State) : (closeBlock s).totalOut = s.totalOut := rfl
@[simp] theorem closeBlock_level (s : State) : (closeBlock s).level = s.level := rfl
@[simp] theorem closeBlock_outLimit (s : State) : (closeBlock s).outLimit = s.outLimit := rfl
@[simp] theorem closeBlock_verify (s : State) : (closeBlock s).verify = s.verify := rfl
@[simp] theorem closeBlock_ckExpect (s : State) : (closeBlock s).ckExpect = s.ckExpect := rfl
@[simp] theorem closeBlock_mode (s : State) : (closeBlock s).mode = s.mode := rfl
@[simp] theorem closeBlock_phase (s : State) : (closeBlock s).phase = s.phase := rfl
@[simp] theorem closeBlock_trail (s : State) : (closeBlock s).trail = s.trail := rfl
@[simp] theorem closeBlock_pending (s : State) : (closeBlock s).pending = s.pending := rfl
@[simp] theorem closeBlock_err (s : State) : (closeBlock s).err = s.err := rfl
@[simp] theorem closeBlock_errPos (s : State) : (closeBlock s).errPos = s.errPos := rfl

/-! ## `acceptInput` -/

@[simp] theorem acceptInput_params (chunk : List Byte) (s : State) : (acceptInput chunk s).params = s.params := rfl
@[simp] theorem acceptInput_hostq (chunk : List Byte) (s : State) : (acceptInput chunk s).hostq = s.hostq := rfl
@[simp] theorem acceptInput_out (chunk : List Byte) (s : State) : (acceptInput chunk s).out = s.out := rfl
@[simp] theorem acceptInput_rdata (chunk : List Byte) (s : State) : (acceptInput chunk s).rdata = s.rdata := rfl
@[simp] theorem acceptInput_oacc (chunk : List Byte) (s : State) : (acceptInput chunk s).oacc = s.oacc := rfl
@[simp] theorem acceptInput_onb (chunk : List Byte) (s : State) : (acceptInput chunk s).onb = s.onb := rfl
@[simp] theorem acceptInput_bitposOut (chunk : List Byte) (s : State) : (acceptInput chunk s).bitposOut = s.bitposOut := rfl
@[simp] theorem acceptInput_inq (chunk : List Byte) (s : State) : (acceptInput chunk s).inq = s.inq ++ bytesBits chunk := rfl
@[simp] theorem acceptInput_bitposIn (chunk : List Byte) (s : State) : (acceptInput chunk s).bitposIn = s.bitposIn := rfl
@[simp] theorem acceptInput_cursor (chunk : List Byte) (s : State) : (acceptInput chunk s).cursor = s.cursor := rfl
@[simp] theorem acceptInput_pendLen (chunk : List Byte) (s : State) : (acceptInput chunk s).pendLen = s.pendLen := rfl
@[simp] theorem acceptInput_la (chunk : List Byte) (s : State) : (acceptInput chunk s).la = s.la := rfl
@[simp] theorem acceptInput_win (chunk : List Byte) (s : State) : (acceptInput chunk s).win = s.win := rfl
@[simp] theorem acceptInput_wpos (chunk : List Byte) (s : State) : (acceptInput chunk s).wpos = s.wpos := rfl
@[simp] theorem acceptInput_whave (chunk : List Byte) (s : State) : (acceptInput chunk s).whave = s.whave := rfl
@[simp] theorem acceptInput_wtotal (chunk : List Byte) (s : State) : (acceptInput chunk s).wtotal = s.wtotal := rfl
@[simp] theorem acceptInput_head (chunk : List Byte) (s : State) : (acceptInput chunk s).head = s.head := rfl
@[simp] theorem acceptInput_prev (chunk : List Byte) (s : State) : (acceptInput chunk s).prev = s.prev := rfl
@[simp] theorem acceptInput_effort (chunk : List Byte) (s : State) : (acceptInput chunk s).effort = s.effort := rfl
@[simp] theorem acceptInput_tok (chunk : List Byte) (s : State) : (acceptInput chunk s).tok = s.tok := rfl
@[simp] theorem acceptInput_blkBytes (chunk : List Byte) (s : State) : (acceptInput chunk s).blkBytes = s.blkBytes := rfl
@[simp] theorem acceptInput_estate (chunk : List Byte) (s : State) : (acceptInput chunk s).estate = s.estate := rfl
@[simp] theorem acceptInput_finalSent (chunk : List Byte) (s : State) : (acceptInput chunk s).finalSent = s.finalSent := rfl
@[simp] theorem acceptInput_dstate (chunk : List Byte) (s : State) : (acceptInput chunk s).dstate = s.dstate := rfl
@[simp] theorem acceptInput_bfinal (chunk : List Byte) (s : State) : (acceptInput chunk s).bfinal = s.bfinal := rfl
@[simp] theorem acceptInput_rem (chunk : List Byte) (s : State) : (acceptInput chunk s).rem = s.rem := rfl
@[simp] theorem acceptInput_nlen (chunk : List Byte) (s : State) : (acceptInput chunk s).nlen = s.nlen := rfl
@[simp] theorem acceptInput_ndist (chunk : List Byte) (s : State) : (acceptInput chunk s).ndist = s.ndist := rfl
@[simp] theorem acceptInput_ncode (chunk : List Byte) (s : State) : (acceptInput chunk s).ncode = s.ncode := rfl
@[simp] theorem acceptInput_idx (chunk : List Byte) (s : State) : (acceptInput chunk s).idx = s.idx := rfl
@[simp] theorem acceptInput_cll (chunk : List Byte) (s : State) : (acceptInput chunk s).cll = s.cll := rfl
@[simp] theorem acceptInput_lens (chunk : List Byte) (s : State) : (acceptInput chunk s).lens = s.lens := rfl
@[simp] theorem acceptInput_clt (chunk : List Byte) (s : State) : (acceptInput chunk s).clt = s.clt := rfl
@[simp] theorem acceptInput_lt (chunk : List Byte) (s : State) : (acceptInput chunk s).lt = s.lt := rfl
@[simp] theorem acceptInput_dt (chunk : List Byte) (s : State) : (acceptInput chunk s).dt = s.dt := rfl
@[simp] theorem acceptInput_s1 (chunk : List Byte) (s : State) : (acceptInput chunk s).s1 = s.s1 := rfl
@[simp] theorem acceptInput_s2 (chunk : List Byte) (s : State) : (acceptInput chunk s).s2 = s.s2 := rfl
@[simp] theorem acceptInput_totalIn (chunk : List Byte) (s : State) : (acceptInput chunk s).totalIn = s.totalIn + chunk.length := rfl
@[simp] theorem acceptInput_totalOut (chunk : List Byte) (s : State) : (acceptInput chunk s).totalOut = s.totalOut := rfl
@[simp] theorem acceptInput_level (chunk : List Byte) (s : State) : (acceptInput chunk s).level = s.level := rfl
@[simp] theorem acceptInput_outLimit (chunk : List Byte) (s : State) : (acceptInput chunk s).outLimit = s.outLimit := rfl
@[simp] theorem acceptInput_verify (chunk : List Byte) (s : State) : (acceptInput chunk s).verify = s.verify := rfl
@[simp] theorem acceptInput_ckExpect (chunk : List Byte) (s : State) : (acceptInput chunk s).ckExpect = s.ckExpect := rfl
@[simp] theorem acceptInput_mode (chunk : List Byte) (s : State) : (acceptInput chunk s).mode = s.mode := rfl
@[simp] theorem acceptInput_phase (chunk : List Byte) (s : State) : (acceptInput chunk s).phase = s.phase := rfl
@[simp] theorem acceptInput_trail (chunk : List Byte) (s : State) : (acceptInput chunk s).trail = s.trail := rfl
@[simp] theorem acceptInput_pending (chunk : List Byte) (s : State) : (acceptInput chunk s).pending = s.pending := rfl
@[simp] theorem acceptInput_err (chunk : List Byte) (s : State) : (acceptInput chunk s).err = s.err := rfl
@[simp] theorem acceptInput_errPos (chunk : List Byte) (s : State) : (acceptInput chunk s).errPos = s.errPos := rfl

/-! ## `resetState` -/

@[simp] theorem resetState_params (s : State) : (resetState s).params = s.params := rfl
@[simp] theorem resetState_hostq (s : State) : (resetState s).hostq = s.hostq := rfl
@[simp] theorem resetState_out (s : State) : (resetState s).out = s.out := rfl
@[simp] theorem resetState_rdata (s : State) : (resetState s).rdata = s.rdata := rfl
@[simp] theorem resetState_oacc (s : State) : (resetState s).oacc = State.reset.oacc := rfl
@[simp] theorem resetState_onb (s : State) : (resetState s).onb = State.reset.onb := rfl
@[simp] theorem resetState_bitposOut (s : State) : (resetState s).bitposOut = State.reset.bitposOut := rfl
@[simp] theorem resetState_inq (s : State) : (resetState s).inq = State.reset.inq := rfl
@[simp] theorem resetState_bitposIn (s : State) : (resetState s).bitposIn = State.reset.bitposIn := rfl
@[simp] theorem resetState_cursor (s : State) : (resetState s).cursor = State.reset.cursor := rfl
@[simp] theorem resetState_pendLen (s : State) : (resetState s).pendLen = State.reset.pendLen := rfl
@[simp] theorem resetState_la (s : State) : (resetState s).la = State.reset.la := rfl
@[simp] theorem resetState_win (s : State) : (resetState s).win = State.reset.win := rfl
@[simp] theorem resetState_wpos (s : State) : (resetState s).wpos = State.reset.wpos := rfl
@[simp] theorem resetState_whave (s : State) : (resetState s).whave = State.reset.whave := rfl
@[simp] theorem resetState_wtotal (s : State) : (resetState s).wtotal = State.reset.wtotal := rfl
@[simp] theorem resetState_head (s : State) : (resetState s).head = State.reset.head := rfl
@[simp] theorem resetState_prev (s : State) : (resetState s).prev = State.reset.prev := rfl
@[simp] theorem resetState_effort (s : State) : (resetState s).effort = State.reset.effort := rfl
@[simp] theorem resetState_tok (s : State) : (resetState s).tok = State.reset.tok := rfl
@[simp] theorem resetState_blkBytes (s : State) : (resetState s).blkBytes = State.reset.blkBytes := rfl
@[simp] theorem resetState_estate (s : State) : (resetState s).estate = State.reset.estate := rfl
@[simp] theorem resetState_finalSent (s : State) : (resetState s).finalSent = State.reset.finalSent := rfl
@[simp] theorem resetState_dstate (s : State) : (resetState s).dstate = State.reset.dstate := rfl
@[simp] theorem resetState_bfinal (s : State) : (resetState s).bfinal = State.reset.bfinal := rfl
@[simp] theorem resetState_rem (s : State) : (resetState s).rem = State.reset.rem := rfl
@[simp] theorem resetState_nlen (s : State) : (resetState s).nlen = State.reset.nlen := rfl
@[simp] theorem resetState_ndist (s : State) : (resetState s).ndist = State.reset.ndist := rfl
@[simp] theorem resetState_ncode (s : State) : (resetState s).ncode = State.reset.ncode := rfl
@[simp] theorem resetState_idx (s : State) : (resetState s).idx = State.reset.idx := rfl
@[simp] theorem resetState_cll (s : State) : (resetState s).cll = State.reset.cll := rfl
@[simp] theorem resetState_lens (s : State) : (resetState s).lens = State.reset.lens := rfl
@[simp] theorem resetState_clt (s : State) : (resetState s).clt = State.reset.clt := rfl
@[simp] theorem resetState_lt (s : State) : (resetState s).lt = State.reset.lt := rfl
@[simp] theorem resetState_dt (s : State) : (resetState s).dt = State.reset.dt := rfl
@[simp] theorem resetState_s1 (s : State) : (resetState s).s1 = State.reset.s1 := rfl
@[simp] theorem resetState_s2 (s : State) : (resetState s).s2 = State.reset.s2 := rfl
@[simp] theorem resetState_totalIn (s : State) : (resetState s).totalIn = State.reset.totalIn := rfl
@[simp] theorem resetState_totalOut (s : State) : (resetState s).totalOut = State.reset.totalOut := rfl
@[simp] theorem resetState_level (s : State) : (resetState s).level = State.reset.level := rfl
@[simp] theorem resetState_outLimit (s : State) : (resetState s).outLimit = State.reset.outLimit := rfl
@[simp] theorem resetState_verify (s : State) : (resetState s).verify = State.reset.verify := rfl
@[simp] theorem resetState_ckExpect (s : State) : (resetState s).ckExpect = State.reset.ckExpect := rfl
@[simp] theorem resetState_mode (s : State) : (resetState s).mode = State.reset.mode := rfl
@[simp] theorem resetState_phase (s : State) : (resetState s).phase = State.reset.phase := rfl
@[simp] theorem resetState_trail (s : State) : (resetState s).trail = State.reset.trail := rfl
@[simp] theorem resetState_pending (s : State) : (resetState s).pending = State.reset.pending := rfl
@[simp] theorem resetState_err (s : State) : (resetState s).err = State.reset.err := rfl
@[simp] theorem resetState_errPos (s : State) : (resetState s).errPos = State.reset.errPos := rfl

/-! ## `streamReset` -/

@[simp] theorem streamReset_params (s : State) : (streamReset s).params = s.params := rfl
@[simp] theorem streamReset_hostq (s : State) : (streamReset s).hostq = s.hostq := rfl
@[simp] theorem streamReset_out (s : State) : (streamReset s).out = s.out := rfl
@[simp] theorem streamReset_rdata (s : State) : (streamReset s).rdata = s.rdata := rfl
@[simp] theorem streamReset_oacc (s : State) : (streamReset s).oacc = State.reset.oacc := rfl
@[simp] theorem streamReset_onb (s : State) : (streamReset s).onb = State.reset.onb := rfl
@[simp] theorem streamReset_bitposOut (s : State) : (streamReset s).bitposOut = State.reset.bitposOut := rfl
@[simp] theorem streamReset_inq (s : State) : (streamReset s).inq = State.reset.inq := rfl
@[simp] theorem streamReset_bitposIn (s : State) : (streamReset s).bitposIn = State.reset.bitposIn := rfl
@[simp] theorem streamReset_cursor (s : State) : (streamReset s).cursor = State.reset.cursor := rfl
@[simp] theorem streamReset_pendLen (s : State) : (streamReset s).pendLen = State.reset.pendLen := rfl
@[simp] theorem streamReset_la (s : State) : (streamReset s).la = State.reset.la := rfl
@[simp] theorem streamReset_win (s : State) : (streamReset s).win = State.reset.win := rfl
@[simp] theorem streamReset_wpos (s : State) : (streamReset s).wpos = State.reset.wpos := rfl
@[simp] theorem streamReset_whave (s : State) : (streamReset s).whave = State.reset.whave := rfl
@[simp] theorem streamReset_wtotal (s : State) : (streamReset s).wtotal = State.reset.wtotal := rfl
@[simp] theorem streamReset_head (s : State) : (streamReset s).head = State.reset.head := rfl
@[simp] theorem streamReset_prev (s : State) : (streamReset s).prev = State.reset.prev := rfl
@[simp] theorem streamReset_effort (s : State) : (streamReset s).effort = State.reset.effort := rfl
@[simp] theorem streamReset_tok (s : State) : (streamReset s).tok = State.reset.tok := rfl
@[simp] theorem streamReset_blkBytes (s : State) : (streamReset s).blkBytes = State.reset.blkBytes := rfl
@[simp] theorem streamReset_estate (s : State) : (streamReset s).estate = State.reset.estate := rfl
@[simp] theorem streamReset_finalSent (s : State) : (streamReset s).finalSent = State.reset.finalSent := rfl
@[simp] theorem streamReset_dstate (s : State) : (streamReset s).dstate = State.reset.dstate := rfl
@[simp] theorem streamReset_bfinal (s : State) : (streamReset s).bfinal = State.reset.bfinal := rfl
@[simp] theorem streamReset_rem (s : State) : (streamReset s).rem = State.reset.rem := rfl
@[simp] theorem streamReset_nlen (s : State) : (streamReset s).nlen = State.reset.nlen := rfl
@[simp] theorem streamReset_ndist (s : State) : (streamReset s).ndist = State.reset.ndist := rfl
@[simp] theorem streamReset_ncode (s : State) : (streamReset s).ncode = State.reset.ncode := rfl
@[simp] theorem streamReset_idx (s : State) : (streamReset s).idx = State.reset.idx := rfl
@[simp] theorem streamReset_cll (s : State) : (streamReset s).cll = State.reset.cll := rfl
@[simp] theorem streamReset_lens (s : State) : (streamReset s).lens = State.reset.lens := rfl
@[simp] theorem streamReset_clt (s : State) : (streamReset s).clt = State.reset.clt := rfl
@[simp] theorem streamReset_lt (s : State) : (streamReset s).lt = State.reset.lt := rfl
@[simp] theorem streamReset_dt (s : State) : (streamReset s).dt = State.reset.dt := rfl
@[simp] theorem streamReset_s1 (s : State) : (streamReset s).s1 = State.reset.s1 := rfl
@[simp] theorem streamReset_s2 (s : State) : (streamReset s).s2 = State.reset.s2 := rfl
@[simp] theorem streamReset_totalIn (s : State) : (streamReset s).totalIn = State.reset.totalIn := rfl
@[simp] theorem streamReset_totalOut (s : State) : (streamReset s).totalOut = State.reset.totalOut := rfl
@[simp] theorem streamReset_level (s : State) : (streamReset s).level = s.level := rfl
@[simp] theorem streamReset_outLimit (s : State) : (streamReset s).outLimit = s.outLimit := rfl
@[simp] theorem streamReset_verify (s : State) : (streamReset s).verify = s.verify := rfl
@[simp] theorem streamReset_ckExpect (s : State) : (streamReset s).ckExpect = s.ckExpect := rfl
@[simp] theorem streamReset_mode (s : State) : (streamReset s).mode = State.reset.mode := rfl
@[simp] theorem streamReset_phase (s : State) : (streamReset s).phase = State.reset.phase := rfl
@[simp] theorem streamReset_trail (s : State) : (streamReset s).trail = State.reset.trail := rfl
@[simp] theorem streamReset_pending (s : State) : (streamReset s).pending = State.reset.pending := rfl
@[simp] theorem streamReset_err (s : State) : (streamReset s).err = State.reset.err := rfl
@[simp] theorem streamReset_errPos (s : State) : (streamReset s).errPos = State.reset.errPos := rfl

/-! ## `openStream` -/

@[simp] theorem openStream_params (m : Mode) (s : State) : (openStream m s).params = s.params := rfl
@[simp] theorem openStream_hostq (m : Mode) (s : State) : (openStream m s).hostq = s.hostq := rfl
@[simp] theorem openStream_out (m : Mode) (s : State) : (openStream m s).out = s.out := rfl
@[simp] theorem openStream_rdata (m : Mode) (s : State) : (openStream m s).rdata = s.rdata := rfl
@[simp] theorem openStream_oacc (m : Mode) (s : State) : (openStream m s).oacc = State.reset.oacc := rfl
@[simp] theorem openStream_onb (m : Mode) (s : State) : (openStream m s).onb = State.reset.onb := rfl
@[simp] theorem openStream_bitposOut (m : Mode) (s : State) : (openStream m s).bitposOut = State.reset.bitposOut := rfl
@[simp] theorem openStream_inq (m : Mode) (s : State) : (openStream m s).inq = State.reset.inq := rfl
@[simp] theorem openStream_bitposIn (m : Mode) (s : State) : (openStream m s).bitposIn = State.reset.bitposIn := rfl
@[simp] theorem openStream_cursor (m : Mode) (s : State) : (openStream m s).cursor = State.reset.cursor := rfl
@[simp] theorem openStream_pendLen (m : Mode) (s : State) : (openStream m s).pendLen = State.reset.pendLen := rfl
@[simp] theorem openStream_la (m : Mode) (s : State) : (openStream m s).la = State.reset.la := rfl
@[simp] theorem openStream_win (m : Mode) (s : State) : (openStream m s).win = State.reset.win := rfl
@[simp] theorem openStream_wpos (m : Mode) (s : State) : (openStream m s).wpos = State.reset.wpos := rfl
@[simp] theorem openStream_whave (m : Mode) (s : State) : (openStream m s).whave = State.reset.whave := rfl
@[simp] theorem openStream_wtotal (m : Mode) (s : State) : (openStream m s).wtotal = State.reset.wtotal := rfl
@[simp] theorem openStream_head (m : Mode) (s : State) : (openStream m s).head = State.reset.head := rfl
@[simp] theorem openStream_prev (m : Mode) (s : State) : (openStream m s).prev = State.reset.prev := rfl
@[simp] theorem openStream_effort (m : Mode) (s : State) : (openStream m s).effort = State.reset.effort := rfl
@[simp] theorem openStream_tok (m : Mode) (s : State) : (openStream m s).tok = State.reset.tok := rfl
@[simp] theorem openStream_blkBytes (m : Mode) (s : State) : (openStream m s).blkBytes = State.reset.blkBytes := rfl
@[simp] theorem openStream_estate (m : Mode) (s : State) : (openStream m s).estate = State.reset.estate := rfl
@[simp] theorem openStream_finalSent (m : Mode) (s : State) : (openStream m s).finalSent = State.reset.finalSent := rfl
@[simp] theorem openStream_dstate (m : Mode) (s : State) : (openStream m s).dstate = State.reset.dstate := rfl
@[simp] theorem openStream_bfinal (m : Mode) (s : State) : (openStream m s).bfinal = State.reset.bfinal := rfl
@[simp] theorem openStream_rem (m : Mode) (s : State) : (openStream m s).rem = State.reset.rem := rfl
@[simp] theorem openStream_nlen (m : Mode) (s : State) : (openStream m s).nlen = State.reset.nlen := rfl
@[simp] theorem openStream_ndist (m : Mode) (s : State) : (openStream m s).ndist = State.reset.ndist := rfl
@[simp] theorem openStream_ncode (m : Mode) (s : State) : (openStream m s).ncode = State.reset.ncode := rfl
@[simp] theorem openStream_idx (m : Mode) (s : State) : (openStream m s).idx = State.reset.idx := rfl
@[simp] theorem openStream_cll (m : Mode) (s : State) : (openStream m s).cll = State.reset.cll := rfl
@[simp] theorem openStream_lens (m : Mode) (s : State) : (openStream m s).lens = State.reset.lens := rfl
@[simp] theorem openStream_clt (m : Mode) (s : State) : (openStream m s).clt = State.reset.clt := rfl
@[simp] theorem openStream_lt (m : Mode) (s : State) : (openStream m s).lt = State.reset.lt := rfl
@[simp] theorem openStream_dt (m : Mode) (s : State) : (openStream m s).dt = State.reset.dt := rfl
@[simp] theorem openStream_s1 (m : Mode) (s : State) : (openStream m s).s1 = State.reset.s1 := rfl
@[simp] theorem openStream_s2 (m : Mode) (s : State) : (openStream m s).s2 = State.reset.s2 := rfl
@[simp] theorem openStream_totalIn (m : Mode) (s : State) : (openStream m s).totalIn = State.reset.totalIn := rfl
@[simp] theorem openStream_totalOut (m : Mode) (s : State) : (openStream m s).totalOut = State.reset.totalOut := rfl
@[simp] theorem openStream_level (m : Mode) (s : State) : (openStream m s).level = s.level := rfl
@[simp] theorem openStream_outLimit (m : Mode) (s : State) : (openStream m s).outLimit = s.outLimit := rfl
@[simp] theorem openStream_verify (m : Mode) (s : State) : (openStream m s).verify = s.verify := rfl
@[simp] theorem openStream_ckExpect (m : Mode) (s : State) : (openStream m s).ckExpect = s.ckExpect := rfl
@[simp] theorem openStream_mode (m : Mode) (s : State) : (openStream m s).mode = m := rfl
@[simp] theorem openStream_phase (m : Mode) (s : State) : (openStream m s).phase = .active := rfl
@[simp] theorem openStream_trail (m : Mode) (s : State) : (openStream m s).trail = State.reset.trail := rfl
@[simp] theorem openStream_pending (m : Mode) (s : State) : (openStream m s).pending = State.reset.pending := rfl
@[simp] theorem openStream_err (m : Mode) (s : State) : (openStream m s).err = State.reset.err := rfl
@[simp] theorem openStream_errPos (m : Mode) (s : State) : (openStream m s).errPos = State.reset.errPos := rfl

/-! ## `insertPos` -/

@[simp] theorem insertPos_params (p : Nat) (s : State) : (insertPos p s).params = s.params := rfl
@[simp] theorem insertPos_hostq (p : Nat) (s : State) : (insertPos p s).hostq = s.hostq := rfl
@[simp] theorem insertPos_out (p : Nat) (s : State) : (insertPos p s).out = s.out := rfl
@[simp] theorem insertPos_rdata (p : Nat) (s : State) : (insertPos p s).rdata = s.rdata := rfl
@[simp] theorem insertPos_oacc (p : Nat) (s : State) : (insertPos p s).oacc = s.oacc := rfl
@[simp] theorem insertPos_onb (p : Nat) (s : State) : (insertPos p s).onb = s.onb := rfl
@[simp] theorem insertPos_bitposOut (p : Nat) (s : State) : (insertPos p s).bitposOut = s.bitposOut := rfl
@[simp] theorem insertPos_inq (p : Nat) (s : State) : (insertPos p s).inq = s.inq := rfl
@[simp] theorem insertPos_bitposIn (p : Nat) (s : State) : (insertPos p s).bitposIn = s.bitposIn := rfl
@[simp] theorem insertPos_cursor (p : Nat) (s : State) : (insertPos p s).cursor = s.cursor := rfl
@[simp] theorem insertPos_pendLen (p : Nat) (s : State) : (insertPos p s).pendLen = s.pendLen := rfl
@[simp] theorem insertPos_la (p : Nat) (s : State) : (insertPos p s).la = s.la := rfl
@[simp] theorem insertPos_win (p : Nat) (s : State) : (insertPos p s).win = s.win := rfl
@[simp] theorem insertPos_wpos (p : Nat) (s : State) : (insertPos p s).wpos = s.wpos := rfl
@[simp] theorem insertPos_whave (p : Nat) (s : State) : (insertPos p s).whave = s.whave := rfl
@[simp] theorem insertPos_wtotal (p : Nat) (s : State) : (insertPos p s).wtotal = s.wtotal := rfl
@[simp] theorem insertPos_head (p : Nat) (s : State) : (insertPos p s).head = sparseWrite s.head (hashAt s p) (some p) := rfl
@[simp] theorem insertPos_prev (p : Nat) (s : State) : (insertPos p s).prev = sparseWrite s.prev (p % wsize s.params) (headRead s (hashAt s p)) := rfl
@[simp] theorem insertPos_effort (p : Nat) (s : State) : (insertPos p s).effort = s.effort := rfl
@[simp] theorem insertPos_tok (p : Nat) (s : State) : (insertPos p s).tok = s.tok := rfl
@[simp] theorem insertPos_blkBytes (p : Nat) (s : State) : (insertPos p s).blkBytes = s.blkBytes := rfl
@[simp] theorem insertPos_estate (p : Nat) (s : State) : (insertPos p s).estate = s.estate := rfl
@[simp] theorem insertPos_finalSent (p : Nat) (s : State) : (insertPos p s).finalSent = s.finalSent := rfl
@[simp] theorem insertPos_dstate (p : Nat) (s : State) : (insertPos p s).dstate = s.dstate := rfl
@[simp] theorem insertPos_bfinal (p : Nat) (s : State) : (insertPos p s).bfinal = s.bfinal := rfl
@[simp] theorem insertPos_rem (p : Nat) (s : State) : (insertPos p s).rem = s.rem := rfl
@[simp] theorem insertPos_nlen (p : Nat) (s : State) : (insertPos p s).nlen = s.nlen := rfl
@[simp] theorem insertPos_ndist (p : Nat) (s : State) : (insertPos p s).ndist = s.ndist := rfl
@[simp] theorem insertPos_ncode (p : Nat) (s : State) : (insertPos p s).ncode = s.ncode := rfl
@[simp] theorem insertPos_idx (p : Nat) (s : State) : (insertPos p s).idx = s.idx := rfl
@[simp] theorem insertPos_cll (p : Nat) (s : State) : (insertPos p s).cll = s.cll := rfl
@[simp] theorem insertPos_lens (p : Nat) (s : State) : (insertPos p s).lens = s.lens := rfl
@[simp] theorem insertPos_clt (p : Nat) (s : State) : (insertPos p s).clt = s.clt := rfl
@[simp] theorem insertPos_lt (p : Nat) (s : State) : (insertPos p s).lt = s.lt := rfl
@[simp] theorem insertPos_dt (p : Nat) (s : State) : (insertPos p s).dt = s.dt := rfl
@[simp] theorem insertPos_s1 (p : Nat) (s : State) : (insertPos p s).s1 = s.s1 := rfl
@[simp] theorem insertPos_s2 (p : Nat) (s : State) : (insertPos p s).s2 = s.s2 := rfl
@[simp] theorem insertPos_totalIn (p : Nat) (s : State) : (insertPos p s).totalIn = s.totalIn := rfl
@[simp] theorem insertPos_totalOut (p : Nat) (s : State) : (insertPos p s).totalOut = s.totalOut := rfl
@[simp] theorem insertPos_level (p : Nat) (s : State) : (insertPos p s).level = s.level := rfl
@[simp] theorem insertPos_outLimit (p : Nat) (s : State) : (insertPos p s).outLimit = s.outLimit := rfl
@[simp] theorem insertPos_verify (p : Nat) (s : State) : (insertPos p s).verify = s.verify := rfl
@[simp] theorem insertPos_ckExpect (p : Nat) (s : State) : (insertPos p s).ckExpect = s.ckExpect := rfl
@[simp] theorem insertPos_mode (p : Nat) (s : State) : (insertPos p s).mode = s.mode := rfl
@[simp] theorem insertPos_phase (p : Nat) (s : State) : (insertPos p s).phase = s.phase := rfl
@[simp] theorem insertPos_trail (p : Nat) (s : State) : (insertPos p s).trail = s.trail := rfl
@[simp] theorem insertPos_pending (p : Nat) (s : State) : (insertPos p s).pending = s.pending := rfl
@[simp] theorem insertPos_err (p : Nat) (s : State) : (insertPos p s).err = s.err := rfl
@[simp] theorem insertPos_errPos (p : Nat) (s : State) : (insertPos p s).errPos = s.errPos := rfl

/-! ## `adlerUpdate` -/

@[simp] theorem adlerUpdate_params (b : Byte) (s : State) : (adlerUpdate b s).params = s.params := rfl
@[simp] theorem adlerUpdate_hostq (b : Byte) (s : State) : (adlerUpdate b s).hostq = s.hostq := rfl
@[simp] theorem adlerUpdate_out (b : Byte) (s : State) : (adlerUpdate b s).out = s.out := rfl
@[simp] theorem adlerUpdate_rdata (b : Byte) (s : State) : (adlerUpdate b s).rdata = s.rdata := rfl
@[simp] theorem adlerUpdate_oacc (b : Byte) (s : State) : (adlerUpdate b s).oacc = s.oacc := rfl
@[simp] theorem adlerUpdate_onb (b : Byte) (s : State) : (adlerUpdate b s).onb = s.onb := rfl
@[simp] theorem adlerUpdate_bitposOut (b : Byte) (s : State) : (adlerUpdate b s).bitposOut = s.bitposOut := rfl
@[simp] theorem adlerUpdate_inq (b : Byte) (s : State) : (adlerUpdate b s).inq = s.inq := rfl
@[simp] theorem adlerUpdate_bitposIn (b : Byte) (s : State) : (adlerUpdate b s).bitposIn = s.bitposIn := rfl
@[simp] theorem adlerUpdate_cursor (b : Byte) (s : State) : (adlerUpdate b s).cursor = s.cursor := rfl
@[simp] theorem adlerUpdate_pendLen (b : Byte) (s : State) : (adlerUpdate b s).pendLen = s.pendLen := rfl
@[simp] theorem adlerUpdate_la (b : Byte) (s : State) : (adlerUpdate b s).la = s.la := rfl
@[simp] theorem adlerUpdate_win (b : Byte) (s : State) : (adlerUpdate b s).win = s.win := rfl
@[simp] theorem adlerUpdate_wpos (b : Byte) (s : State) : (adlerUpdate b s).wpos = s.wpos := rfl
@[simp] theorem adlerUpdate_whave (b : Byte) (s : State) : (adlerUpdate b s).whave = s.whave := rfl
@[simp] theorem adlerUpdate_wtotal (b : Byte) (s : State) : (adlerUpdate b s).wtotal = s.wtotal := rfl
@[simp] theorem adlerUpdate_head (b : Byte) (s : State) : (adlerUpdate b s).head = s.head := rfl
@[simp] theorem adlerUpdate_prev (b : Byte) (s : State) : (adlerUpdate b s).prev = s.prev := rfl
@[simp] theorem adlerUpdate_effort (b : Byte) (s : State) : (adlerUpdate b s).effort = s.effort := rfl
@[simp] theorem adlerUpdate_tok (b : Byte) (s : State) : (adlerUpdate b s).tok = s.tok := rfl
@[simp] theorem adlerUpdate_blkBytes (b : Byte) (s : State) : (adlerUpdate b s).blkBytes = s.blkBytes := rfl
@[simp] theorem adlerUpdate_estate (b : Byte) (s : State) : (adlerUpdate b s).estate = s.estate := rfl
@[simp] theorem adlerUpdate_finalSent (b : Byte) (s : State) : (adlerUpdate b s).finalSent = s.finalSent := rfl
@[simp] theorem adlerUpdate_dstate (b : Byte) (s : State) : (adlerUpdate b s).dstate = s.dstate := rfl
@[simp] theorem adlerUpdate_bfinal (b : Byte) (s : State) : (adlerUpdate b s).bfinal = s.bfinal := rfl
@[simp] theorem adlerUpdate_rem (b : Byte) (s : State) : (adlerUpdate b s).rem = s.rem := rfl
@[simp] theorem adlerUpdate_nlen (b : Byte) (s : State) : (adlerUpdate b s).nlen = s.nlen := rfl
@[simp] theorem adlerUpdate_ndist (b : Byte) (s : State) : (adlerUpdate b s).ndist = s.ndist := rfl
@[simp] theorem adlerUpdate_ncode (b : Byte) (s : State) : (adlerUpdate b s).ncode = s.ncode := rfl
@[simp] theorem adlerUpdate_idx (b : Byte) (s : State) : (adlerUpdate b s).idx = s.idx := rfl
@[simp] theorem adlerUpdate_cll (b : Byte) (s : State) : (adlerUpdate b s).cll = s.cll := rfl
@[simp] theorem adlerUpdate_lens (b : Byte) (s : State) : (adlerUpdate b s).lens = s.lens := rfl
@[simp] theorem adlerUpdate_clt (b : Byte) (s : State) : (adlerUpdate b s).clt = s.clt := rfl
@[simp] theorem adlerUpdate_lt (b : Byte) (s : State) : (adlerUpdate b s).lt = s.lt := rfl
@[simp] theorem adlerUpdate_dt (b : Byte) (s : State) : (adlerUpdate b s).dt = s.dt := rfl
@[simp] theorem adlerUpdate_s1 (b : Byte) (s : State) : (adlerUpdate b s).s1 = .ofNat 16 ((s.s1.toNat + b.toNat) % adlerBase) := rfl
@[simp] theorem adlerUpdate_s2 (b : Byte) (s : State) : (adlerUpdate b s).s2 = .ofNat 16 ((s.s2.toNat + (s.s1.toNat + b.toNat) % adlerBase) % adlerBase) := rfl
@[simp] theorem adlerUpdate_totalIn (b : Byte) (s : State) : (adlerUpdate b s).totalIn = s.totalIn := rfl
@[simp] theorem adlerUpdate_totalOut (b : Byte) (s : State) : (adlerUpdate b s).totalOut = s.totalOut := rfl
@[simp] theorem adlerUpdate_level (b : Byte) (s : State) : (adlerUpdate b s).level = s.level := rfl
@[simp] theorem adlerUpdate_outLimit (b : Byte) (s : State) : (adlerUpdate b s).outLimit = s.outLimit := rfl
@[simp] theorem adlerUpdate_verify (b : Byte) (s : State) : (adlerUpdate b s).verify = s.verify := rfl
@[simp] theorem adlerUpdate_ckExpect (b : Byte) (s : State) : (adlerUpdate b s).ckExpect = s.ckExpect := rfl
@[simp] theorem adlerUpdate_mode (b : Byte) (s : State) : (adlerUpdate b s).mode = s.mode := rfl
@[simp] theorem adlerUpdate_phase (b : Byte) (s : State) : (adlerUpdate b s).phase = s.phase := rfl
@[simp] theorem adlerUpdate_trail (b : Byte) (s : State) : (adlerUpdate b s).trail = s.trail := rfl
@[simp] theorem adlerUpdate_pending (b : Byte) (s : State) : (adlerUpdate b s).pending = s.pending := rfl
@[simp] theorem adlerUpdate_err (b : Byte) (s : State) : (adlerUpdate b s).err = s.err := rfl
@[simp] theorem adlerUpdate_errPos (b : Byte) (s : State) : (adlerUpdate b s).errPos = s.errPos := rfl

/-! ## `putBitList` -/

@[simp] theorem putBitList_params (bits : List Bool) (s : State) : (putBitList bits s).params = s.params := rfl
@[simp] theorem putBitList_hostq (bits : List Bool) (s : State) : (putBitList bits s).hostq = s.hostq := rfl
@[simp] theorem putBitList_out (bits : List Bool) (s : State) : (putBitList bits s).out = s.out ++ (bits.foldl sinkBit ⟨s.oacc, s.onb, []⟩).emitted := rfl
@[simp] theorem putBitList_rdata (bits : List Bool) (s : State) : (putBitList bits s).rdata = s.rdata := rfl
@[simp] theorem putBitList_oacc (bits : List Bool) (s : State) : (putBitList bits s).oacc = (bits.foldl sinkBit ⟨s.oacc, s.onb, []⟩).oacc := rfl
@[simp] theorem putBitList_onb (bits : List Bool) (s : State) : (putBitList bits s).onb = (bits.foldl sinkBit ⟨s.oacc, s.onb, []⟩).onb := rfl
@[simp] theorem putBitList_bitposOut (bits : List Bool) (s : State) : (putBitList bits s).bitposOut = s.bitposOut + bits.length := rfl
@[simp] theorem putBitList_inq (bits : List Bool) (s : State) : (putBitList bits s).inq = s.inq := rfl
@[simp] theorem putBitList_bitposIn (bits : List Bool) (s : State) : (putBitList bits s).bitposIn = s.bitposIn := rfl
@[simp] theorem putBitList_cursor (bits : List Bool) (s : State) : (putBitList bits s).cursor = s.cursor := rfl
@[simp] theorem putBitList_pendLen (bits : List Bool) (s : State) : (putBitList bits s).pendLen = s.pendLen := rfl
@[simp] theorem putBitList_la (bits : List Bool) (s : State) : (putBitList bits s).la = s.la := rfl
@[simp] theorem putBitList_win (bits : List Bool) (s : State) : (putBitList bits s).win = s.win := rfl
@[simp] theorem putBitList_wpos (bits : List Bool) (s : State) : (putBitList bits s).wpos = s.wpos := rfl
@[simp] theorem putBitList_whave (bits : List Bool) (s : State) : (putBitList bits s).whave = s.whave := rfl
@[simp] theorem putBitList_wtotal (bits : List Bool) (s : State) : (putBitList bits s).wtotal = s.wtotal := rfl
@[simp] theorem putBitList_head (bits : List Bool) (s : State) : (putBitList bits s).head = s.head := rfl
@[simp] theorem putBitList_prev (bits : List Bool) (s : State) : (putBitList bits s).prev = s.prev := rfl
@[simp] theorem putBitList_effort (bits : List Bool) (s : State) : (putBitList bits s).effort = s.effort := rfl
@[simp] theorem putBitList_tok (bits : List Bool) (s : State) : (putBitList bits s).tok = s.tok := rfl
@[simp] theorem putBitList_blkBytes (bits : List Bool) (s : State) : (putBitList bits s).blkBytes = s.blkBytes := rfl
@[simp] theorem putBitList_estate (bits : List Bool) (s : State) : (putBitList bits s).estate = s.estate := rfl
@[simp] theorem putBitList_finalSent (bits : List Bool) (s : State) : (putBitList bits s).finalSent = s.finalSent := rfl
@[simp] theorem putBitList_dstate (bits : List Bool) (s : State) : (putBitList bits s).dstate = s.dstate := rfl
@[simp] theorem putBitList_bfinal (bits : List Bool) (s : State) : (putBitList bits s).bfinal = s.bfinal := rfl
@[simp] theorem putBitList_rem (bits : List Bool) (s : State) : (putBitList bits s).rem = s.rem := rfl
@[simp] theorem putBitList_nlen (bits : List Bool) (s : State) : (putBitList bits s).nlen = s.nlen := rfl
@[simp] theorem putBitList_ndist (bits : List Bool) (s : State) : (putBitList bits s).ndist = s.ndist := rfl
@[simp] theorem putBitList_ncode (bits : List Bool) (s : State) : (putBitList bits s).ncode = s.ncode := rfl
@[simp] theorem putBitList_idx (bits : List Bool) (s : State) : (putBitList bits s).idx = s.idx := rfl
@[simp] theorem putBitList_cll (bits : List Bool) (s : State) : (putBitList bits s).cll = s.cll := rfl
@[simp] theorem putBitList_lens (bits : List Bool) (s : State) : (putBitList bits s).lens = s.lens := rfl
@[simp] theorem putBitList_clt (bits : List Bool) (s : State) : (putBitList bits s).clt = s.clt := rfl
@[simp] theorem putBitList_lt (bits : List Bool) (s : State) : (putBitList bits s).lt = s.lt := rfl
@[simp] theorem putBitList_dt (bits : List Bool) (s : State) : (putBitList bits s).dt = s.dt := rfl
@[simp] theorem putBitList_s1 (bits : List Bool) (s : State) : (putBitList bits s).s1 = s.s1 := rfl
@[simp] theorem putBitList_s2 (bits : List Bool) (s : State) : (putBitList bits s).s2 = s.s2 := rfl
@[simp] theorem putBitList_totalIn (bits : List Bool) (s : State) : (putBitList bits s).totalIn = s.totalIn := rfl
@[simp] theorem putBitList_totalOut (bits : List Bool) (s : State) : (putBitList bits s).totalOut = s.totalOut + (bits.foldl sinkBit ⟨s.oacc, s.onb, []⟩).emitted.length := rfl
@[simp] theorem putBitList_level (bits : List Bool) (s : State) : (putBitList bits s).level = s.level := rfl
@[simp] theorem putBitList_outLimit (bits : List Bool) (s : State) : (putBitList bits s).outLimit = s.outLimit := rfl
@[simp] theorem putBitList_verify (bits : List Bool) (s : State) : (putBitList bits s).verify = s.verify := rfl
@[simp] theorem putBitList_ckExpect (bits : List Bool) (s : State) : (putBitList bits s).ckExpect = s.ckExpect := rfl
@[simp] theorem putBitList_mode (bits : List Bool) (s : State) : (putBitList bits s).mode = s.mode := rfl
@[simp] theorem putBitList_phase (bits : List Bool) (s : State) : (putBitList bits s).phase = s.phase := rfl
@[simp] theorem putBitList_trail (bits : List Bool) (s : State) : (putBitList bits s).trail = s.trail := rfl
@[simp] theorem putBitList_pending (bits : List Bool) (s : State) : (putBitList bits s).pending = s.pending := rfl
@[simp] theorem putBitList_err (bits : List Bool) (s : State) : (putBitList bits s).err = s.err := rfl
@[simp] theorem putBitList_errPos (bits : List Bool) (s : State) : (putBitList bits s).errPos = s.errPos := rfl

/-! ## `windowAppend` -/

@[simp] theorem windowAppend_params (b : Byte) (s : State) : (windowAppend b s).params = s.params := by
  unfold windowAppend windowEmit; split <;> simp_all
@[simp] theorem windowAppend_hostq (b : Byte) (s : State) : (windowAppend b s).hostq = s.hostq := by
  unfold windowAppend windowEmit; split <;> simp_all
@[simp] theorem windowAppend_out (b : Byte) (s : State) : (windowAppend b s).out = if s.mode = .decompress then s.out ++ [b] else s.out := by
  unfold windowAppend windowEmit; split <;> simp_all
@[simp] theorem windowAppend_rdata (b : Byte) (s : State) : (windowAppend b s).rdata = s.rdata := by
  unfold windowAppend windowEmit; split <;> simp_all
@[simp] theorem windowAppend_oacc (b : Byte) (s : State) : (windowAppend b s).oacc = s.oacc := by
  unfold windowAppend windowEmit; split <;> simp_all
@[simp] theorem windowAppend_onb (b : Byte) (s : State) : (windowAppend b s).onb = s.onb := by
  unfold windowAppend windowEmit; split <;> simp_all
@[simp] theorem windowAppend_bitposOut (b : Byte) (s : State) : (windowAppend b s).bitposOut = s.bitposOut := by
  unfold windowAppend windowEmit; split <;> simp_all
@[simp] theorem windowAppend_inq (b : Byte) (s : State) : (windowAppend b s).inq = s.inq := by
  unfold windowAppend windowEmit; split <;> simp_all
@[simp] theorem windowAppend_bitposIn (b : Byte) (s : State) : (windowAppend b s).bitposIn = s.bitposIn := by
  unfold windowAppend windowEmit; split <;> simp_all
@[simp] theorem windowAppend_cursor (b : Byte) (s : State) : (windowAppend b s).cursor = s.cursor := by
  unfold windowAppend windowEmit; split <;> simp_all
@[simp] theorem windowAppend_pendLen (b : Byte) (s : State) : (windowAppend b s).pendLen = s.pendLen := by
  unfold windowAppend windowEmit; split <;> simp_all
@[simp] theorem windowAppend_la (b : Byte) (s : State) : (windowAppend b s).la = s.la := by
  unfold windowAppend windowEmit; split <;> simp_all
@[simp] theorem windowAppend_win (b : Byte) (s : State) : (windowAppend b s).win = winWrite s.win s.wpos b := by
  unfold windowAppend windowEmit; split <;> simp_all
@[simp] theorem windowAppend_wpos (b : Byte) (s : State) : (windowAppend b s).wpos = (s.wpos + 1) % wsize s.params := by
  unfold windowAppend windowEmit; split <;> simp_all
@[simp] theorem windowAppend_whave (b : Byte) (s : State) : (windowAppend b s).whave = min (s.whave + 1) (wsize s.params) := by
  unfold windowAppend windowEmit; split <;> simp_all
@[simp] theorem windowAppend_wtotal (b : Byte) (s : State) : (windowAppend b s).wtotal = s.wtotal + 1 := by
  unfold windowAppend windowEmit; split <;> simp_all
@[simp] theorem windowAppend_head (b : Byte) (s : State) : (windowAppend b s).head = s.head := by
  unfold windowAppend windowEmit; split <;> simp_all
@[simp] theorem windowAppend_prev (b : Byte) (s : State) : (windowAppend b s).prev = s.prev := by
  unfold windowAppend windowEmit; split <;> simp_all
@[simp] theorem windowAppend_effort (b : Byte) (s : State) : (windowAppend b s).effort = s.effort := by
  unfold windowAppend windowEmit; split <;> simp_all
@[simp] theorem windowAppend_tok (b : Byte) (s : State) : (windowAppend b s).tok = s.tok := by
  unfold windowAppend windowEmit; split <;> simp_all
@[simp] theorem windowAppend_blkBytes (b : Byte) (s : State) : (windowAppend b s).blkBytes = s.blkBytes := by
  unfold windowAppend windowEmit; split <;> simp_all
@[simp] theorem windowAppend_estate (b : Byte) (s : State) : (windowAppend b s).estate = s.estate := by
  unfold windowAppend windowEmit; split <;> simp_all
@[simp] theorem windowAppend_finalSent (b : Byte) (s : State) : (windowAppend b s).finalSent = s.finalSent := by
  unfold windowAppend windowEmit; split <;> simp_all
@[simp] theorem windowAppend_dstate (b : Byte) (s : State) : (windowAppend b s).dstate = s.dstate := by
  unfold windowAppend windowEmit; split <;> simp_all
@[simp] theorem windowAppend_bfinal (b : Byte) (s : State) : (windowAppend b s).bfinal = s.bfinal := by
  unfold windowAppend windowEmit; split <;> simp_all
@[simp] theorem windowAppend_rem (b : Byte) (s : State) : (windowAppend b s).rem = s.rem := by
  unfold windowAppend windowEmit; split <;> simp_all
@[simp] theorem windowAppend_nlen (b : Byte) (s : State) : (windowAppend b s).nlen = s.nlen := by
  unfold windowAppend windowEmit; split <;> simp_all
@[simp] theorem windowAppend_ndist (b : Byte) (s : State) : (windowAppend b s).ndist = s.ndist := by
  unfold windowAppend windowEmit; split <;> simp_all
@[simp] theorem windowAppend_ncode (b : Byte) (s : State) : (windowAppend b s).ncode = s.ncode := by
  unfold windowAppend windowEmit; split <;> simp_all
@[simp] theorem windowAppend_idx (b : Byte) (s : State) : (windowAppend b s).idx = s.idx := by
  unfold windowAppend windowEmit; split <;> simp_all
@[simp] theorem windowAppend_cll (b : Byte) (s : State) : (windowAppend b s).cll = s.cll := by
  unfold windowAppend windowEmit; split <;> simp_all
@[simp] theorem windowAppend_lens (b : Byte) (s : State) : (windowAppend b s).lens = s.lens := by
  unfold windowAppend windowEmit; split <;> simp_all
@[simp] theorem windowAppend_clt (b : Byte) (s : State) : (windowAppend b s).clt = s.clt := by
  unfold windowAppend windowEmit; split <;> simp_all
@[simp] theorem windowAppend_lt (b : Byte) (s : State) : (windowAppend b s).lt = s.lt := by
  unfold windowAppend windowEmit; split <;> simp_all
@[simp] theorem windowAppend_dt (b : Byte) (s : State) : (windowAppend b s).dt = s.dt := by
  unfold windowAppend windowEmit; split <;> simp_all
@[simp] theorem windowAppend_s1 (b : Byte) (s : State) : (windowAppend b s).s1 = .ofNat 16 ((s.s1.toNat + b.toNat) % adlerBase) := by
  unfold windowAppend windowEmit; split <;> simp_all
@[simp] theorem windowAppend_s2 (b : Byte) (s : State) : (windowAppend b s).s2 = .ofNat 16 ((s.s2.toNat + (s.s1.toNat + b.toNat) % adlerBase) % adlerBase) := by
  unfold windowAppend windowEmit; split <;> simp_all
@[simp] theorem windowAppend_totalIn (b : Byte) (s : State) : (windowAppend b s).totalIn = s.totalIn := by
  unfold windowAppend windowEmit; split <;> simp_all
@[simp] theorem windowAppend_totalOut (b : Byte) (s : State) : (windowAppend b s).totalOut = if s.mode = .decompress then s.totalOut + 1 else s.totalOut := by
  unfold windowAppend windowEmit; split <;> simp_all
@[simp] theorem windowAppend_level (b : Byte) (s : State) : (windowAppend b s).level = s.level := by
  unfold windowAppend windowEmit; split <;> simp_all
@[simp] theorem windowAppend_outLimit (b : Byte) (s : State) : (windowAppend b s).outLimit = s.outLimit := by
  unfold windowAppend windowEmit; split <;> simp_all
@[simp] theorem windowAppend_verify (b : Byte) (s : State) : (windowAppend b s).verify = s.verify := by
  unfold windowAppend windowEmit; split <;> simp_all
@[simp] theorem windowAppend_ckExpect (b : Byte) (s : State) : (windowAppend b s).ckExpect = s.ckExpect := by
  unfold windowAppend windowEmit; split <;> simp_all
@[simp] theorem windowAppend_mode (b : Byte) (s : State) : (windowAppend b s).mode = s.mode := by
  unfold windowAppend windowEmit; split <;> simp_all
@[simp] theorem windowAppend_phase (b : Byte) (s : State) : (windowAppend b s).phase = s.phase := by
  unfold windowAppend windowEmit; split <;> simp_all
@[simp] theorem windowAppend_trail (b : Byte) (s : State) : (windowAppend b s).trail = s.trail := by
  unfold windowAppend windowEmit; split <;> simp_all
@[simp] theorem windowAppend_pending (b : Byte) (s : State) : (windowAppend b s).pending = s.pending := by
  unfold windowAppend windowEmit; split <;> simp_all
@[simp] theorem windowAppend_err (b : Byte) (s : State) : (windowAppend b s).err = s.err := by
  unfold windowAppend windowEmit; split <;> simp_all
@[simp] theorem windowAppend_errPos (b : Byte) (s : State) : (windowAppend b s).errPos = s.errPos := by
  unfold windowAppend windowEmit; split <;> simp_all

end Sys2Proof.Machine
end

