-- ==== Sys2Proof/Laws/Ops.lean ====
section
/-! SUPPORT. What each shared operation can do, said once: its frame, and how it composes. -/

namespace Sys2Proof.Machine

/-! ## Output side of Bit I/O -/

theorem sinkBit_foldl_emitted (bits : List Bool) (k : BitSink) (pre : List Byte) :
    bits.foldl sinkBit { k with emitted := pre ++ k.emitted } =
      { bits.foldl sinkBit k with emitted := pre ++ (bits.foldl sinkBit k).emitted } := by
  induction bits generalizing k with
  | nil => rfl
  | cons b bs ih =>
    simp only [List.foldl_cons]
    rw [← ih]
    congr 1
    simp only [sinkBit]
    split <;> simp

/-- Appending bits in two goes is appending them in one (R120). -/
theorem putBitList_append (as bs : List Bool) (s : State) :
    putBitList (as ++ bs) s = putBitList bs (putBitList as s) := by
  unfold putBitList
  simp only [List.foldl_append]
  have key := sinkBit_foldl_emitted bs
    { oacc := (as.foldl sinkBit ⟨s.oacc, s.onb, []⟩).oacc, onb := (as.foldl sinkBit ⟨s.oacc, s.onb, []⟩).onb, emitted := [] }
    (as.foldl sinkBit ⟨s.oacc, s.onb, []⟩).emitted
  simp only [List.append_nil] at key
  rw [key]
  simp only [List.append_assoc, List.length_append, State.mk.injEq, true_and, and_true]
  constructor <;> omega

@[simp] theorem putBitList_nil (s : State) : putBitList [] s = s := by simp [putBitList]

/-- `PutBits` and `PutCode` write the output side of Bit I/O and the output stream, nothing else. -/
theorem putBitList_frame (bits : List Bool) (s : State) : OutputFrame s (putBitList bits s) := rfl

theorem putBitList_out_prefix (bits : List Bool) (s : State) : s.out <+: (putBitList bits s).out := List.prefix_append _ _

theorem putBitList_totalOut_balance (bits : List Bool) (s : State) :
    (putBitList bits s).totalOut + s.out.length = s.totalOut + (putBitList bits s).out.length := by
  simp only [putBitList, List.length_append]
  omega

theorem alignOut_frame (s : State) : OutputFrame s (alignOut s) := rfl

/-! ## Window -/

/-- `Window.append` writes the window, the checksum and the output stream, nothing else (R140). -/
theorem windowAppend_frame (b : Byte) (s : State) : WindowFrame s (windowAppend b s) := by
  unfold windowAppend windowEmit adlerUpdate
  split <;> rfl

@[simp] theorem windowAppendAll_nil (s : State) : windowAppendAll [] s = s := rfl

@[simp] theorem windowAppendAll_cons (b : Byte) (bs : List Byte) (s : State) :
    windowAppendAll (b :: bs) s = windowAppendAll bs (windowAppend b s) := rfl

theorem windowAppendAll_append (as bs : List Byte) (s : State) :
    windowAppendAll (as ++ bs) s = windowAppendAll bs (windowAppendAll as s) := List.foldl_append

theorem WindowFrame.trans {s t u : State} (h : WindowFrame s t) (k : WindowFrame t u) : WindowFrame s u := by
  simp only [WindowFrame] at *
  rw [k]
  rw [h]

theorem windowAppendAll_frame (bs : List Byte) (s : State) : WindowFrame s (windowAppendAll bs s) := by
  induction bs generalizing s with
  | nil => rfl
  | cons b bs ih => exact (windowAppend_frame b s).trans (ih _)

theorem windowCopy_frame (distance length : Nat) (s : State) : WindowFrame s (windowCopy distance length s) := by
  induction length generalizing s with
  | zero => rfl
  | succ n ih => exact (windowAppend_frame _ s).trans (ih _)

/-- What one append does to the window's registers (R140). -/
theorem windowAppend_window (b : Byte) (s : State) :
    (windowAppend b s).win = winWrite s.win s.wpos b ∧ (windowAppend b s).wpos = (s.wpos + 1) % wsize s.params ∧
      (windowAppend b s).whave = min (s.whave + 1) (wsize s.params) ∧ (windowAppend b s).wtotal = s.wtotal + 1 := by
  unfold windowAppend windowEmit adlerUpdate
  split <;> exact ⟨rfl, rfl, rfl, rfl⟩

theorem windowAppendAll_wtotal (bs : List Byte) (s : State) :
    (windowAppendAll bs s).wtotal = s.wtotal + bs.length := by
  induction bs generalizing s with
  | nil => rfl
  | cons b bs ih =>
    rw [windowAppendAll_cons, ih, (windowAppend_window b s).2.2.2, List.length_cons]
    omega

/-! ## Faults and the ends of steps -/

/-- At a step boundary nothing is left to take back. -/
theorem rollback_of_boundary {s : State} (h : s.AtBoundary) : rollback s = s := by
  obtain ⟨h1, h2⟩ := h
  cases s
  simp_all [rollback]

/-- At a step boundary nothing is left to consume. -/
theorem commit_of_boundary {s : State} (h : s.AtBoundary) : commit s = s := by
  obtain ⟨h1, h2⟩ := h
  cases s
  simp_all [commit]

/-- A fault, a held step and a completed step all end at a step boundary. -/
theorem raise_atBoundary (c : Cause) (s : State) : (raise c s).AtBoundary := ⟨rfl, rfl⟩

theorem rollback_atBoundary (s : State) : (rollback s).AtBoundary := ⟨rfl, rfl⟩

theorem commit_atBoundary (s : State) : (commit s).AtBoundary := ⟨rfl, rfl⟩

/-- What a step has read is what leaves the input (R24). -/
theorem commit_accounts {s : State} (h : s.cursor ≤ s.inq.length) :
    (commit s).bitposIn + (commit s).inq.length = s.bitposIn + s.inq.length := by
  simp only [commit, List.length_drop]
  omega

theorem commit_inputFrame (s : State) : InputFrame s (commit s) := rfl

end Sys2Proof.Machine
end

