-- ==== Sys2Proof/Laws/Decoder.lean ====
section
/-! SUPPORT. What the fetch of a stream element and one transition of the decoder can answer, said once. -/

namespace Sys2Proof.Machine

/-! ## Fetch -/

/-- A fetched symbol: the code, the extra bits and the decoding it came from; the fetch changes only the cursor. -/
theorem fetchSymbol_element {f : Format} {T : DecodeTable} {s t : State} {i : Instr}
    (h : fetchSymbol f T s = .element i t) :
    ∃ y n x, decodeSym T (unread s) = .sym y n ∧ peekBits (extraAsked f y s) ((unread s).drop n) = some x ∧
      decode ⟨f, y, x, []⟩ = .ok i ∧ t = advance (n + extraAsked f y s) s := by
  unfold fetchSymbol at h
  split at h
  · cases h
  · cases h
  · next y n hy =>
    split at h
    · cases h
    · next x hx =>
      split at h
      · next j hj =>
        cases h
        exact ⟨y, n, x, hy, hx, hj, rfl⟩
      · cases h

/-- A fetched header is decoded from the next three bits (R82). -/
theorem fetchHeader_element {s t : State} {i : Instr} (h : fetchHeader s = .element i t) :
    ∃ v, peekBits 3 (unread s) = some v ∧ decode ⟨.blockHdr, v, 0, []⟩ = .ok i ∧ t = advance 3 s := by
  unfold fetchHeader at h
  split at h
  · cases h
  · next v hv =>
    split at h
    · next j hj =>
      cases h
      exact ⟨v, hv, hj, rfl⟩
    · cases h

/-- Whatever element is fetched, only the cursor has moved. -/
theorem fetchElement_element {s t : State} {i : Instr} (h : fetchElement s = some (.element i t)) :
    ∃ n, t = advance n s := by
  unfold fetchElement at h
  split at h
  · obtain ⟨_, -, -, rfl⟩ := fetchHeader_element (Option.some.inj h); exact ⟨_, rfl⟩
  · obtain ⟨_, _, _, -, -, -, rfl⟩ := fetchSymbol_element (Option.some.inj h); exact ⟨_, rfl⟩
  · split at h <;> (obtain ⟨_, _, _, -, -, -, rfl⟩ := fetchSymbol_element (Option.some.inj h); exact ⟨_, rfl⟩)
  all_goals cases h

/-! ## DecodeSym -/

/-- A symbol that `DecodeSym` returns is one of the table's, read from bits that are there. -/
theorem decodeSymLoop_sym {sorted counts : List Nat} {code first index n y m : Nat} {bits : List Bool}
    (h : decodeSymLoop sorted counts code first index n bits = .sym y m) :
    y ∈ sorted ∧ n < m ∧ m ≤ n + bits.length := by
  induction counts generalizing code first index n bits with
  | nil => simp [decodeSymLoop] at h
  | cons c cs ih =>
    cases bits with
    | nil => simp [decodeSymLoop] at h
    | cons b bs =>
      simp only [decodeSymLoop] at h
      split at h
      · split at h
        · next z hz =>
          cases h
          exact ⟨List.mem_of_getElem? hz, by omega, by simp⟩
        · cases h
      · have := ih h
        simp only [List.length_cons]
        exact ⟨this.1, by omega, by omega⟩

theorem decodeSym_sym {T : DecodeTable} {bits : List Bool} {y m : Nat} (h : decodeSym T bits = .sym y m) :
    y ∈ T.sorted ∧ 0 < m ∧ m ≤ bits.length := by
  simpa using decodeSymLoop_sym h

/-! ## One transition -/

/-- What a transition of the decoder can be: an element that is executed, an unassigned code, or one of the steps that
are no element of the opcode table (R230). -/
theorem decoderStep_cases {run : Instr → State → Host.Outcome State Fault Refusal} {s u : State}
    (h : decoderStep run s = some (.next u)) :
    (∃ i t, fetchElement s = some (.element i t) ∧ run i t = .next u ∧ distanceHolds u = false) ∨
      (fetchElement s = some .unassigned ∧ u = raise .unassignedCode s) ∨
      (fetchElement s = none ∧ plainStep s = some u) := by
  unfold decoderStep at h
  split at h
  · next f hf =>
    cases f with
    | element i t =>
      left
      simp only [runFetch, Option.bind_some] at h
      refine ⟨i, t, hf, ?_⟩
      generalize run i t = o at h
      cases o with
      | next v =>
        simp only [wholeElement] at h
        split at h
        · cases h
        · next hd => cases h; exact ⟨rfl, by simpa using hd⟩
      | fault r => simp [wholeElement] at h
      | refused r => simp [wholeElement] at h
    | hold => simp [runFetch] at h
    | unassigned =>
      right; left
      simp only [runFetch, Option.bind_some, wholeElement] at h
      split at h
      · cases h
      · cases h; exact ⟨hf, rfl⟩
    | noSuchSymbol y => simp [runFetch, wholeElement] at h
  · next hf =>
    right; right
    cases hp : plainStep s with
    | none => simp [hp] at h
    | some v => rw [hp] at h; simp only [Option.map_some, Option.some.injEq, Host.Outcome.next.injEq] at h; exact ⟨hf, by rw [h]⟩

/-- A step that is no element never answers with a state that still waits for a distance: it commits or raises. -/
theorem plainStep_atBoundary {s u : State} (h : plainStep s = some u) : u.AtBoundary := by
  unfold plainStep at h
  split at h
  · unfold storedLenStep at h
    split at h
    · split at h
      · cases h; exact raise_atBoundary _ _
      · split at h
        · cases h; exact raise_atBoundary _ _
        · dsimp only at h
          cases h; split <;> exact ⟨rfl, rfl⟩
    · cases h
  · unfold storedCopyStep at h
    split at h
    · cases h
    · cases h
      split <;> exact ⟨by simp, by simp⟩
  · unfold dynHdrStep at h
    split at h
    · cases h
    · dsimp only at h
      split at h
      · cases h; exact raise_atBoundary _ _
      · cases h; exact ⟨rfl, rfl⟩
  · unfold dynClStep at h
    split at h
    · cases h
    · dsimp only at h
      split at h
      · split at h
        · cases h; exact raise_atBoundary _ _
        · cases h; exact ⟨rfl, rfl⟩
      · cases h; exact ⟨rfl, rfl⟩
  all_goals cases h

/-- The decoder loop runs the same meanings as `exec`: on a stream element the two agree. -/
theorem execElement_eq_exec {i : Instr} (h : (encode i).format ≠ .cmd) (s : State) : execElement i s = exec i s := by
  cases i <;> first | rfl | exact absurd rfl h

end Sys2Proof.Machine
end

