-- ==== Sys2Proof/Laws/Memory.lean ====
section
/-! SUPPORT. The private memories: read after write, and every operation that writes one keeps its canonical form. -/

namespace Sys2Proof.Machine

theorem sparseRead_of_lt {α : Type} {m : List (Nat × α)} {k : Nat} (h : ∀ e ∈ m, k < e.1) : sparseRead m k = none := by
  induction m with
  | nil => rfl
  | cons e t ih =>
    have hne : e.1 ≠ k := by have := h e (by simp); omega
    simp only [sparseRead, if_neg hne]
    exact ih fun x hx => h x (List.mem_cons_of_mem _ hx)

theorem sparseWrite_keys {α : Type} {m : List (Nat × α)} {k : Nat} {v : Option α} {e : Nat × α}
    (h : e ∈ sparseWrite m k v) : e ∈ m ∨ (e.1 = k ∧ v = some e.2) := by
  induction m with
  | nil => cases v <;> simp_all [sparseWrite]
  | cons x t ih =>
    obtain ⟨a, y⟩ := x
    simp only [sparseWrite] at h
    split at h
    · rcases List.mem_cons.mp h with rfl | h
      · simp
      · exact (ih h).imp_left (List.mem_cons_of_mem _)
    · split at h <;> cases v <;> simp_all <;> rcases h with rfl | h <;> simp_all

theorem sparseWrite_sorted {α : Type} {m : List (Nat × α)} (k : Nat) (v : Option α) (h : SparseSorted m) :
    SparseSorted (sparseWrite m k v) := by
  induction m with
  | nil => cases v <;> simp [SparseSorted, sparseWrite]
  | cons x t ih =>
    obtain ⟨a, y⟩ := x
    have ht := List.pairwise_cons.mp h
    simp only [sparseWrite]
    split
    · next hlt =>
      refine List.pairwise_cons.mpr ⟨fun e he => ?_, ih ht.2⟩
      rcases sparseWrite_keys he with he | he
      · exact ht.1 e he
      · simpa [he.1] using hlt
    · split
      · next heq =>
        subst heq
        cases v with
        | none => simpa using ht.2
        | some v => exact List.pairwise_cons.mpr ⟨fun e he => ht.1 e he, ht.2⟩
      · next hge hne =>
        cases v with
        | none => simpa using h
        | some v =>
          refine List.pairwise_cons.mpr ⟨fun e he => ?_, h⟩
          rcases List.mem_cons.mp he with rfl | he
          · simp; omega
          · have := ht.1 e he
            simp only at this ⊢
            omega

/-- Reading the index just written gives the value written. -/
theorem sparseRead_sparseWrite_same {α : Type} {m : List (Nat × α)} (k : Nat) (v : Option α) (h : SparseSorted m) :
    sparseRead (sparseWrite m k v) k = v := by
  induction m with
  | nil => cases v <;> simp [sparseWrite, sparseRead]
  | cons x t ih =>
    obtain ⟨a, y⟩ := x
    have ht := List.pairwise_cons.mp h
    simp only [sparseWrite]
    split
    · next hlt => simpa [sparseRead, Nat.ne_of_lt hlt] using ih ht.2
    · split
      · next heq =>
        subst heq
        cases v with
        | none => simpa using sparseRead_of_lt fun e he => ht.1 e he
        | some v => simp [sparseRead]
      · next hge hne =>
        cases v with
        | none =>
          have : sparseRead ((a, y) :: t) k = none := sparseRead_of_lt fun e he => by
            rcases List.mem_cons.mp he with rfl | he
            · simp; omega
            · have := ht.1 e he
              simp only at this
              omega
          simpa using this
        | some v => simp [sparseRead]

/-- A write leaves every other index as it was. -/
theorem sparseRead_sparseWrite_ne {α : Type} {m : List (Nat × α)} {k j : Nat} (v : Option α) (hj : j ≠ k) :
    sparseRead (sparseWrite m k v) j = sparseRead m j := by
  have hk : k ≠ j := fun e => hj e.symm
  induction m with
  | nil => cases v <;> simp [sparseWrite, sparseRead, hk]
  | cons x t ih =>
    obtain ⟨a, y⟩ := x
    simp only [sparseWrite]
    split
    · simp [sparseRead, ih]
    · split
      · next heq => subst heq; cases v <;> simp [sparseRead, hk]
      · cases v <;> simp [sparseRead, hk]

/-- `MemRead` after `MemWrite` to the same ring address (R62). -/
theorem winRead_winWrite_same {m : List Host.Cell} (a : Nat) (b : Byte) (h : SparseSorted m) :
    winRead (winWrite m a b) a = b := by
  unfold winRead winWrite
  rw [sparseRead_sparseWrite_same a _ h]
  split <;> simp_all

/-- `MemWrite` leaves every other ring address as it was (R62). -/
theorem winRead_winWrite_ne {m : List Host.Cell} {a c : Nat} (b : Byte) (h : c ≠ a) :
    winRead (winWrite m a b) c = winRead m c := by
  simp only [winRead, winWrite, sparseRead_sparseWrite_ne _ h]

theorem winWrite_wf {m : List Host.Cell} (a : Nat) (b : Byte) (h : Memory.wf m) : Memory.wf (winWrite m a b) := by
  refine ⟨sparseWrite_sorted a _ h.1, fun e he => ?_⟩
  rcases sparseWrite_keys he with he | ⟨-, he⟩
  · exact h.2 e he
  · split at he <;> simp_all

theorem insertPos_memWF {s : State} (p : Nat) (h : s.MemWF) : (insertPos p s).MemWF :=
  ⟨h.1, sparseWrite_sorted _ _ h.2.1, sparseWrite_sorted _ _ h.2.2⟩

theorem windowAppend_memWF {s : State} (b : Byte) (h : s.MemWF) : (windowAppend b s).MemWF := by
  unfold windowAppend windowEmit adlerUpdate
  split <;> exact ⟨winWrite_wf _ _ h.1, h.2⟩

theorem windowAppendAll_memWF {s : State} (bs : List Byte) (h : s.MemWF) : (windowAppendAll bs s).MemWF := by
  induction bs generalizing s with
  | nil => exact h
  | cons b bs ih => exact ih (windowAppend_memWF b h)

theorem windowCopy_memWF {s : State} (distance length : Nat) (h : s.MemWF) : (windowCopy distance length s).MemWF := by
  induction length generalizing s with
  | zero => exact h
  | succ n ih => exact ih (windowAppend_memWF _ h)

/-- The memories of the reset state are in canonical form. -/
theorem reset_memWF : State.reset.MemWF := by decide

end Sys2Proof.Machine
end

