-- ==== Sys2Proof/Laws/PerInstr.lean ====
section
/-! SUPPORT. One statement per constructor of `Instr`: its encoding fits its format. The host's case split over all
instructions names these lemmas. -/

namespace Sys2Proof.Laws.CodeFits

/-- The encoding of a well-formed instruction fits: its code in the bits of its format (R100), its extra field in the
extra bits of its symbol (R88, R91, R93), and only FEED has a chunk (R81). -/
def Statement (i : Instr) : Prop :=
  i.wellFormed = true →
    (encode i).code < 2 ^ (encode i).format.width ∧
      (encode i).extra < 2 ^ extraWidth (encode i).format (encode i).code ∧
      ((encode i).code ≠ 4 ∨ (encode i).format ≠ .cmd → (encode i).chunk = [])

/-- A byte operand is a code of eight bits, and of nine. -/
theorem byte_lt (b : Byte) : b.toNat < 2 ^ 8 ∧ b.toNat < 2 ^ 9 := ⟨b.isLt, Nat.lt_of_lt_of_le b.isLt (by decide)⟩

/-- The row of length symbol `257 + k`. -/
theorem of_len {i : Instr} (k : Nat) (extra : BitVec 5) (hk : k < 29)
    (he : encode i = ⟨.litlenSym, 257 + k, extra.toNat, []⟩) (hw : i.wellFormed = lenExtraFits k extra) :
    Statement i := by
  intro h
  rw [hw, lenExtraFits, decide_eq_true_eq] at h
  rw [he]
  refine ⟨?_, ?_, fun _ => rfl⟩
  · show 257 + k < 512
    omega
  · show extra.toNat < 2 ^ extraWidth .litlenSym (257 + k)
    rw [extraWidth, if_pos (by omega), Nat.add_sub_cancel_left]
    exact h

/-- The row of distance symbol `k`. -/
theorem of_dist {i : Instr} (k : Nat) (extra : BitVec 13) (hk : k < 30)
    (he : encode i = ⟨.distSym, k, extra.toNat, []⟩) (hw : i.wellFormed = distExtraFits k extra) :
    Statement i := by
  intro h
  rw [hw, distExtraFits, decide_eq_true_eq] at h
  rw [he]
  refine ⟨?_, h, fun _ => rfl⟩
  show k < 32
  omega

/-- A row whose code is a constant and whose extra field is 0. -/
theorem of_fixed {i : Instr} (hc : (encode i).code < 2 ^ (encode i).format.width) (hx : (encode i).extra = 0)
    (hb : (encode i).chunk = []) : Statement i := fun _ => ⟨hc, by rw [hx]; exact Nat.two_pow_pos _, fun _ => hb⟩

theorem reset : Statement .reset := of_fixed (by decide) rfl rfl
theorem cinit : Statement .cinit := of_fixed (by decide) rfl rfl
theorem dinit : Statement .dinit := of_fixed (by decide) rfl rfl
theorem feed (chunk : List Byte) : Statement (.feed chunk) :=
  fun _ => ⟨(by decide : 4 < 2 ^ 8), (by decide : 0 < 2 ^ 0), fun h => by rcases h with h | h <;> exact absurd rfl h⟩
theorem flush : Statement .flush := of_fixed (by decide) rfl rfl
theorem finish : Statement .finish := of_fixed (by decide) rfl rfl
theorem cmdReserved00 : Statement .cmdReserved00 := of_fixed (by decide) rfl rfl
theorem cmdReserved07 : Statement .cmdReserved07 := of_fixed (by decide) rfl rfl
theorem cmdReserved080F (code : Byte) : Statement (.cmdReserved080F code) := of_fixed (byte_lt code).1 rfl rfl
theorem cmdReserved101F (code : Byte) : Statement (.cmdReserved101F code) := of_fixed (byte_lt code).1 rfl rfl
theorem cmdReserved203F (code : Byte) : Statement (.cmdReserved203F code) := of_fixed (byte_lt code).1 rfl rfl
theorem cmdReserved407F (code : Byte) : Statement (.cmdReserved407F code) := of_fixed (byte_lt code).1 rfl rfl
theorem cmdReserved80FF (code : Byte) : Statement (.cmdReserved80FF code) := of_fixed (byte_lt code).1 rfl rfl
theorem blockStored (final : Bool) : Statement (.blockStored final) := of_fixed (by cases final <;> decide) rfl rfl
theorem blockFixed (final : Bool) : Statement (.blockFixed final) := of_fixed (by cases final <;> decide) rfl rfl
theorem blockDynamic (final : Bool) : Statement (.blockDynamic final) := of_fixed (by cases final <;> decide) rfl rfl
theorem blockReserved (final : Bool) : Statement (.blockReserved final) :=
  of_fixed (by cases final <;> decide) rfl rfl
theorem lit000_127 (byte : Byte) : Statement (.lit000_127 byte) := of_fixed (byte_lt byte).2 rfl rfl
theorem lit128_143 (byte : Byte) : Statement (.lit128_143 byte) := of_fixed (byte_lt byte).2 rfl rfl
theorem lit144_159 (byte : Byte) : Statement (.lit144_159 byte) := of_fixed (byte_lt byte).2 rfl rfl
theorem lit160_191 (byte : Byte) : Statement (.lit160_191 byte) := of_fixed (byte_lt byte).2 rfl rfl
theorem lit192_255 (byte : Byte) : Statement (.lit192_255 byte) := of_fixed (byte_lt byte).2 rfl rfl
theorem eob : Statement .eob := of_fixed (by decide) rfl rfl
theorem len257 (extra : BitVec 5) : Statement (.len257 extra) := of_len 0 extra (by decide) rfl rfl
theorem len258 (extra : BitVec 5) : Statement (.len258 extra) := of_len 1 extra (by decide) rfl rfl
theorem len259 (extra : BitVec 5) : Statement (.len259 extra) := of_len 2 extra (by decide) rfl rfl
theorem len260 (extra : BitVec 5) : Statement (.len260 extra) := of_len 3 extra (by decide) rfl rfl
theorem len261 (extra : BitVec 5) : Statement (.len261 extra) := of_len 4 extra (by decide) rfl rfl
theorem len262 (extra : BitVec 5) : Statement (.len262 extra) := of_len 5 extra (by decide) rfl rfl
theorem len263 (extra : BitVec 5) : Statement (.len263 extra) := of_len 6 extra (by decide) rfl rfl
theorem len264 (extra : BitVec 5) : Statement (.len264 extra) := of_len 7 extra (by decide) rfl rfl
theorem len265 (extra : BitVec 5) : Statement (.len265 extra) := of_len 8 extra (by decide) rfl rfl
theorem len266 (extra : BitVec 5) : Statement (.len266 extra) := of_len 9 extra (by decide) rfl rfl
theorem len267 (extra : BitVec 5) : Statement (.len267 extra) := of_len 10 extra (by decide) rfl rfl
theorem len268 (extra : BitVec 5) : Statement (.len268 extra) := of_len 11 extra (by decide) rfl rfl
theorem len269 (extra : BitVec 5) : Statement (.len269 extra) := of_len 12 extra (by decide) rfl rfl
theorem len270 (extra : BitVec 5) : Statement (.len270 extra) := of_len 13 extra (by decide) rfl rfl
theorem len271 (extra : BitVec 5) : Statement (.len271 extra) := of_len 14 extra (by decide) rfl rfl
theorem len272 (extra : BitVec 5) : Statement (.len272 extra) := of_len 15 extra (by decide) rfl rfl
theorem len273 (extra : BitVec 5) : Statement (.len273 extra) := of_len 16 extra (by decide) rfl rfl
theorem len274 (extra : BitVec 5) : Statement (.len274 extra) := of_len 17 extra (by decide) rfl rfl
theorem len275 (extra : BitVec 5) : Statement (.len275 extra) := of_len 18 extra (by decide) rfl rfl
theorem len276 (extra : BitVec 5) : Statement (.len276 extra) := of_len 19 extra (by decide) rfl rfl
theorem len277 (extra : BitVec 5) : Statement (.len277 extra) := of_len 20 extra (by decide) rfl rfl
theorem len278 (extra : BitVec 5) : Statement (.len278 extra) := of_len 21 extra (by decide) rfl rfl
theorem len279 (extra : BitVec 5) : Statement (.len279 extra) := of_len 22 extra (by decide) rfl rfl
theorem len280 (extra : BitVec 5) : Statement (.len280 extra) := of_len 23 extra (by decide) rfl rfl
theorem len281 (extra : BitVec 5) : Statement (.len281 extra) := of_len 24 extra (by decide) rfl rfl
theorem len282 (extra : BitVec 5) : Statement (.len282 extra) := of_len 25 extra (by decide) rfl rfl
theorem len283 (extra : BitVec 5) : Statement (.len283 extra) := of_len 26 extra (by decide) rfl rfl
theorem len284 (extra : BitVec 5) : Statement (.len284 extra) := of_len 27 extra (by decide) rfl rfl
theorem len285 (extra : BitVec 5) : Statement (.len285 extra) := of_len 28 extra (by decide) rfl rfl
theorem litlenInvalid286_287 (low : BitVec 1) : Statement (.litlenInvalid286_287 low) :=
  of_fixed (by revert low; decide) rfl rfl
theorem dist0 (extra : BitVec 13) : Statement (.dist0 extra) := of_dist 0 extra (by decide) rfl rfl
theorem dist1 (extra : BitVec 13) : Statement (.dist1 extra) := of_dist 1 extra (by decide) rfl rfl
theorem dist2 (extra : BitVec 13) : Statement (.dist2 extra) := of_dist 2 extra (by decide) rfl rfl
theorem dist3 (extra : BitVec 13) : Statement (.dist3 extra) := of_dist 3 extra (by decide) rfl rfl
theorem dist4 (extra : BitVec 13) : Statement (.dist4 extra) := of_dist 4 extra (by decide) rfl rfl
theorem dist5 (extra : BitVec 13) : Statement (.dist5 extra) := of_dist 5 extra (by decide) rfl rfl
theorem dist6 (extra : BitVec 13) : Statement (.dist6 extra) := of_dist 6 extra (by decide) rfl rfl
theorem dist7 (extra : BitVec 13) : Statement (.dist7 extra) := of_dist 7 extra (by decide) rfl rfl
theorem dist8 (extra : BitVec 13) : Statement (.dist8 extra) := of_dist 8 extra (by decide) rfl rfl
theorem dist9 (extra : BitVec 13) : Statement (.dist9 extra) := of_dist 9 extra (by decide) rfl rfl
theorem dist10 (extra : BitVec 13) : Statement (.dist10 extra) := of_dist 10 extra (by decide) rfl rfl
theorem dist11 (extra : BitVec 13) : Statement (.dist11 extra) := of_dist 11 extra (by decide) rfl rfl
theorem dist12 (extra : BitVec 13) : Statement (.dist12 extra) := of_dist 12 extra (by decide) rfl rfl
theorem dist13 (extra : BitVec 13) : Statement (.dist13 extra) := of_dist 13 extra (by decide) rfl rfl
theorem dist14 (extra : BitVec 13) : Statement (.dist14 extra) := of_dist 14 extra (by decide) rfl rfl
theorem dist15 (extra : BitVec 13) : Statement (.dist15 extra) := of_dist 15 extra (by decide) rfl rfl
theorem dist16 (extra : BitVec 13) : Statement (.dist16 extra) := of_dist 16 extra (by decide) rfl rfl
theorem dist17 (extra : BitVec 13) : Statement (.dist17 extra) := of_dist 17 extra (by decide) rfl rfl
theorem dist18 (extra : BitVec 13) : Statement (.dist18 extra) := of_dist 18 extra (by decide) rfl rfl
theorem dist19 (extra : BitVec 13) : Statement (.dist19 extra) := of_dist 19 extra (by decide) rfl rfl
theorem dist20 (extra : BitVec 13) : Statement (.dist20 extra) := of_dist 20 extra (by decide) rfl rfl
theorem dist21 (extra : BitVec 13) : Statement (.dist21 extra) := of_dist 21 extra (by decide) rfl rfl
theorem dist22 (extra : BitVec 13) : Statement (.dist22 extra) := of_dist 22 extra (by decide) rfl rfl
theorem dist23 (extra : BitVec 13) : Statement (.dist23 extra) := of_dist 23 extra (by decide) rfl rfl
theorem dist24 (extra : BitVec 13) : Statement (.dist24 extra) := of_dist 24 extra (by decide) rfl rfl
theorem dist25 (extra : BitVec 13) : Statement (.dist25 extra) := of_dist 25 extra (by decide) rfl rfl
theorem dist26 (extra : BitVec 13) : Statement (.dist26 extra) := of_dist 26 extra (by decide) rfl rfl
theorem dist27 (extra : BitVec 13) : Statement (.dist27 extra) := of_dist 27 extra (by decide) rfl rfl
theorem dist28 (extra : BitVec 13) : Statement (.dist28 extra) := of_dist 28 extra (by decide) rfl rfl
theorem dist29 (extra : BitVec 13) : Statement (.dist29 extra) := of_dist 29 extra (by decide) rfl rfl
theorem distInvalid30_31 (low : BitVec 1) : Statement (.distInvalid30_31 low) :=
  of_fixed (by revert low; decide) rfl rfl
theorem cl (len : BitVec 4) : Statement (.cl len) := of_fixed (by revert len; decide) rfl rfl
theorem rep16 (extra : BitVec 2) : Statement (.rep16 extra) :=
  fun _ => ⟨(by decide : 16 < 2 ^ 5), extra.isLt, fun _ => rfl⟩
theorem repz17 (extra : BitVec 3) : Statement (.repz17 extra) :=
  fun _ => ⟨(by decide : 17 < 2 ^ 5), extra.isLt, fun _ => rfl⟩
theorem repz18 (extra : BitVec 7) : Statement (.repz18 extra) :=
  fun _ => ⟨(by decide : 18 < 2 ^ 5), extra.isLt, fun _ => rfl⟩

end Sys2Proof.Laws.CodeFits
end

