-- ==== Sys2Proof/Laws/Tokens.lean ====
section
/-! SUPPORT. The matcher and the tokeniser: what a comparison finds, how much a token covers, what accepting a token
leaves alone. -/

namespace Sys2Proof.Machine

/-- The comparison finds at most the bytes it may compare. -/
theorem matchLength_le (s : State) (a b n : Nat) : matchLength s a b n ≤ n := by
  induction n generalizing a b with
  | zero => simp [matchLength]
  | succ n ih =>
    simp only [matchLength]
    split
    · exact Nat.succ_le_succ (ih _ _)
    · omega

/-- The bytes it counts are equal (R154). -/
theorem matchLength_equal (s : State) (a b n : Nat) :
    ∀ k < matchLength s a b n, dataAt s (a + k) = dataAt s (b + k) := by
  induction n generalizing a b with
  | zero => simp [matchLength]
  | succ n ih =>
    intro k hk
    simp only [matchLength] at hk
    split at hk
    · next h =>
      cases k with
      | zero => exact h
      | succ k =>
        have := ih (a + 1) (b + 1) k (by omega)
        simpa [Nat.add_assoc, Nat.add_comm 1 k] using this
    · omega

/-- It stops only at a difference or at the end (R154). -/
theorem matchLength_stop (s : State) (a b n : Nat) (h : matchLength s a b n < n) :
    dataAt s (a + matchLength s a b n) ≠ dataAt s (b + matchLength s a b n) := by
  induction n generalizing a b with
  | zero => omega
  | succ n ih =>
    simp only [matchLength] at h ⊢
    split at h
    · next heq =>
      simp only [if_pos heq]
      have := ih (a + 1) (b + 1) (by omega)
      simpa [Nat.add_assoc, Nat.add_comm 1] using this
    · next hne => simp [hne]

/-- The walk never keeps a match longer than it may be. -/
theorem walkChain_len_le (s : State) (p maxlen n : Nat) (q : Option Nat) (best : Best) (h : best.len ≤ max 2 maxlen) :
    (walkChain s p maxlen n q best).len ≤ max 2 maxlen := by
  induction n generalizing q best with
  | zero => simpa [walkChain] using h
  | succ n ih =>
    cases q with
    | none => simpa [walkChain] using h
    | some q =>
      simp only [walkChain]
      split
      · apply ih
        split
        · have := matchLength_le s q p maxlen
          simp only
          omega
        · exact h
      · exact h

/-- A match found covers three bytes at least and no more than it may. -/
theorem findMatch_len {s : State} {p effort maxlen : Nat} {m : Best} (h : findMatch s p effort maxlen = some m) :
    3 ≤ m.len ∧ m.len ≤ maxlen := by
  unfold findMatch at h
  split at h
  · cases h
  · next hg =>
    have hb := walkChain_len_le s p maxlen effort (headRead s (hashAt s p)) ⟨2, 0⟩ (by simp)
    simp only at h
    split at h
    · cases h
      have : minMatch = 3 := rfl
      omega
    · cases h

/-- The next token covers one byte at least, and only bytes that are there (R158). -/
theorem tokenSpan_nextToken {s : State} (h : 0 < s.la.length) :
    1 ≤ tokenSpan (nextToken s) ∧ tokenSpan (nextToken s) ≤ s.la.length ∧ tokenSpan (nextToken s) ≤ maxMatch := by
  unfold nextToken
  split
  · next m hm =>
    have := findMatch_len hm
    simp only [tokenSpan]
    omega
  · have : maxMatch = 258 := rfl
    simp only [tokenSpan]
    omega

theorem insertRange_frame (p n : Nat) (s : State) :
    insertRange p n s = { s with head := (insertRange p n s).head, prev := (insertRange p n s).prev } := by
  induction n generalizing p s with
  | zero => rfl
  | succ n ih =>
    simp only [insertRange]
    rw [ih]
    split <;> rfl

/-- The insertions of an accepted token, position by position in increasing order, those whose three bytes are known
(R153, R158). -/
theorem insertRange_eq_foldl (p n : Nat) (s : State) :
    insertRange p n s =
      ((List.range' p n).filter fun k => k + 2 < s.wtotal + s.la.length).foldl (fun v k => insertPos k v) s := by
  induction n generalizing p s with
  | zero => rfl
  | succ n ih =>
    rw [List.range'_succ]
    simp only [insertRange]
    split
    · next h =>
      rw [List.filter_cons_of_pos (by simpa using h), List.foldl_cons]
      exact ih (p + 1) (insertPos p s)
    · next h =>
      rw [List.filter_cons_of_neg (by simpa using h)]
      exact ih (p + 1) s

/-- The insertions do not read the token buffer (R152). -/
theorem insertRange_tok (p n : Nat) (s : State) (tok : List Token) :
    insertRange p n { s with tok := tok } = { insertRange p n s with tok := tok } := by
  induction n generalizing p s with
  | zero => rfl
  | succ n ih =>
    have hw : ({ s with tok := tok } : State).wtotal = s.wtotal := rfl
    have hl : ({ s with tok := tok } : State).la = s.la := rfl
    simp only [insertRange]
    rw [hw, hl]
    split
    · exact ih (p + 1) (insertPos p s)
    · exact ih (p + 1) s

/-- Emitting a block empties the token buffer and writes the output side of Bit I/O, nothing else (R202). -/
theorem emitBlock_frame (final : Bool) (s : State) :
    OutputFrame { s with tok := [], blkBytes := 0, estate := .accumulating, finalSent := s.finalSent || final }
      (emitBlock final s) := rfl

theorem CompressFrame.trans {s t u : State} (h : CompressFrame s t) (k : CompressFrame t u) : CompressFrame s u := by
  simp only [CompressFrame] at *
  rw [k]
  rw [h]

theorem emitBlock_compressFrame (final : Bool) (s : State) : CompressFrame s (emitBlock final s) := rfl

theorem consumeToken_compressFrame (n : Nat) (s : State) : CompressFrame s (consumeToken n s) := by
  have h := windowAppendAll_frame (s.la.take n) s
  simp only [consumeToken, CompressFrame, WindowFrame] at *
  rw [h]

/-- Accepting a token leaves the decoder, the configuration and the host's side alone (R22, R158). -/
theorem acceptToken_compressFrame (s : State) : CompressFrame s (acceptToken s) := by
  unfold acceptToken
  have h1 : CompressFrame s { s with tok := s.tok ++ [nextToken s] } := rfl
  have h2 := insertRange_frame s.wtotal (tokenSpan (nextToken s)) { s with tok := s.tok ++ [nextToken s] }
  have h3 : CompressFrame s (insertRange s.wtotal (tokenSpan (nextToken s)) { s with tok := s.tok ++ [nextToken s] }) := by
    simp only [CompressFrame]
    rw [h2]
  have h4 := h3.trans (consumeToken_compressFrame (tokenSpan (nextToken s)) _)
  simp only
  split
  · exact h4.trans (emitBlock_compressFrame false _)
  · exact h4

theorem tokeniseLoop_compressFrame (finishing : Bool) (fuel : Nat) (s : State) :
    CompressFrame s (tokeniseLoop finishing fuel s) := by
  induction fuel generalizing s with
  | zero => rfl
  | succ n ih =>
    simp only [tokeniseLoop]
    split
    · rfl
    · exact (acceptToken_compressFrame s).trans (ih _)

/-- The tokeniser leaves the decoder, the configuration and the host's side alone (R22, R160). -/
theorem tokenise_compressFrame (finishing : Bool) (s : State) : CompressFrame s (tokenise finishing s) :=
  tokeniseLoop_compressFrame finishing _ s

/-- An accepted token takes its bytes from the front of the lookahead (R158). -/
theorem acceptToken_la (s : State) : (acceptToken s).la = s.la.drop (tokenSpan (nextToken s)) := by
  have h := insertRange_frame s.wtotal (tokenSpan (nextToken s)) { s with tok := s.tok ++ [nextToken s] }
  unfold acceptToken
  simp only
  split
  · rw [emitBlock_frame]
    simp only [consumeToken]
    rw [h]
  · simp only [consumeToken]
    rw [h]

theorem acceptToken_la_length_lt {s : State} (h : 0 < s.la.length) : (acceptToken s).la.length < s.la.length := by
  have := tokenSpan_nextToken h
  rw [acceptToken_la, List.length_drop]
  omega

/-- What `Tokenise` does (R160): it accepts tokens one after another as long as its test lets it, and stops where the
test fails. -/
theorem tokenise_iterate (finishing : Bool) (s : State) :
    ∃ k, tokenise finishing s = Nat.iterate acceptToken k s ∧
      (∀ j < k, (Nat.iterate acceptToken j s).la ≠ [] ∧
        (finishing = false → lookaheadMin ≤ (Nat.iterate acceptToken j s).la.length)) ∧
      ((Nat.iterate acceptToken k s).la = [] ∨
        finishing = false ∧ (Nat.iterate acceptToken k s).la.length < lookaheadMin) := by
  suffices h : ∀ fuel s, s.la.length ≤ fuel → ∃ k, tokeniseLoop finishing fuel s = Nat.iterate acceptToken k s ∧
      (∀ j < k, (Nat.iterate acceptToken j s).la ≠ [] ∧
        (finishing = false → lookaheadMin ≤ (Nat.iterate acceptToken j s).la.length)) ∧
      ((Nat.iterate acceptToken k s).la = [] ∨
        finishing = false ∧ (Nat.iterate acceptToken k s).la.length < lookaheadMin) from h _ s (Nat.le_refl _)
  intro fuel
  induction fuel with
  | zero => exact fun s h => ⟨0, rfl, by simp, .inl (List.length_eq_zero_iff.mp (Nat.le_zero.mp h))⟩
  | succ n ih =>
    intro s h
    simp only [tokeniseLoop, List.length_eq_zero_iff]
    split
    · next hs => exact ⟨0, rfl, by simp, hs⟩
    · next hs =>
      rw [not_or] at hs
      have hlt := acceptToken_la_length_lt (List.length_pos_iff.mpr hs.1)
      obtain ⟨k, heq, hbefore, hend⟩ := ih (acceptToken s) (by omega)
      refine ⟨k + 1, heq, fun j hj => ?_, hend⟩
      cases j with
      | zero => exact ⟨hs.1, fun hf => Nat.le_of_not_lt fun hl => hs.2 ⟨hf, hl⟩⟩
      | succ j => exact hbefore j (by omega)

end Sys2Proof.Machine
end

