-- ==== Sys2Proof/Tests/Slice0.lean ====
section
/-! SUPPORT. The model's own tests: ill-formed terms are refused, every row of the opcode table decodes from a word
written out from the spec's encoding, single steps give what the vectors of spec/95_test_vectors.md say, and for every
statement with hypotheses a concrete state meets them. -/

namespace Sys2Proof.Tests

set_option Elab.async false

open Sys2Proof Sys2Proof.Machine

/-! ## Helpers -/

/-- The outcome is a next state that satisfies the test. -/
def nextSat (o : Host.Outcome State Fault Refusal) (p : State → Bool) : Bool :=
  match o with
  | .next s => p s
  | .fault _ => false
  | .refused _ => false

/-- The next state of an outcome; the state itself where there is none. -/
def nextOr (s : State) (o : Host.Outcome State Fault Refusal) : State :=
  match o with
  | .next t => t
  | .fault _ => s
  | .refused _ => s

/-- An open decompress stream in a decoder state with unread bits. -/
def openAt (d : DState) (bits : List Bool) : State :=
  { State.reset with mode := .decompress, phase := .active, dstate := d, inq := bits }

/-- An open compress stream of level 6 with bytes waiting in the lookahead. -/
def compressing (waiting : List Byte) : State :=
  { State.reset with mode := .compress, phase := .active, effort := 128, la := waiting }

/-- A decompress stream whose window holds `61 62 63`, as it would after three literals. -/
def threeBytes (d : DState) (bits : List Bool) : State := windowAppendAll [0x61, 0x62, 0x63] (openAt d bits)

/-- A full window of 512 bytes in decompress mode, as V-W6 leaves it, with only the cells 88 to 92 listed. -/
def fullWindow : State :=
  { openAt .sym [] with
    params := { Params.default with wbits := 9 }
    win := [(88, 0x58), (89, 0x59), (90, 0x5A), (91, 0x5B), (92, 0x5C)]
    wpos := 88, whave := 512, wtotal := 600, totalOut := 600 }

/-- The lengths that give each of the 19 code-length symbols five bits, so that its code is its number. -/
def cl5 : List Nat := List.replicate 19 5

/-! ## Well-formedness: each check refuses an ill-formed term -/

theorem test_illformed_byte_ranges_are_refused :
    ([.cmdReserved080F 0x07, .cmdReserved080F 0x10, .cmdReserved101F 0x0F, .cmdReserved101F 0x20,
      .cmdReserved203F 0x1F, .cmdReserved203F 0x40, .cmdReserved407F 0x3F, .cmdReserved407F 0x80,
      .cmdReserved80FF 0x7F, .lit000_127 128, .lit128_143 127, .lit128_143 144, .lit144_159 143, .lit144_159 160,
      .lit160_191 159, .lit160_191 192, .lit192_255 191] : List Instr).all (fun i => !i.wellFormed) = true := by decide

/-- A length symbol refuses the first extra value that does not fit (R91); symbols 281..284 take every value. -/
theorem test_illformed_length_extras_are_refused :
    ([.len257 1, .len258 1, .len259 1, .len260 1, .len261 1, .len262 1, .len263 1, .len264 1, .len265 2,
      .len266 2, .len267 2, .len268 2, .len269 4, .len270 4, .len271 4, .len272 4, .len273 8, .len274 8,
      .len275 8, .len276 8, .len277 16, .len278 16, .len279 16, .len280 16, .len285 1] :
      List Instr).all (fun i => !i.wellFormed) = true := by decide

/-- A distance symbol refuses the first extra value that does not fit (R93); symbols 28, 29 take every value. -/
theorem test_illformed_distance_extras_are_refused :
    ([.dist0 1, .dist1 1, .dist2 1, .dist3 1, .dist4 2, .dist5 2, .dist6 4, .dist7 4, .dist8 8, .dist9 8,
      .dist10 16, .dist11 16, .dist12 32, .dist13 32, .dist14 64, .dist15 64, .dist16 128, .dist17 128,
      .dist18 256, .dist19 256, .dist20 512, .dist21 512, .dist22 1024, .dist23 1024, .dist24 2048,
      .dist25 2048, .dist26 4096, .dist27 4096] :
      List Instr).all (fun i => !i.wellFormed) = true := by decide

theorem test_wellformed_bounds_are_accepted :
    ([.cmdReserved080F 0x08, .cmdReserved080F 0x0F, .cmdReserved80FF 0xFF, .lit000_127 127, .lit128_143 143,
      .lit144_159 159, .lit160_191 191, .lit192_255 255, .len265 1, .len284 31, .dist4 1, .dist29 0x1FFF] :
      List Instr).all (fun i => i.wellFormed) = true := by decide

/-! ## Decoding: one word for every row, written out bit by bit from the spec's encodings -/

/-- Command codes of R81 (CMD, bits [7:0]). -/
theorem test_decode_commands :
    ([(0b00000001, .reset), (0b00000010, .cinit), (0b00000011, .dinit), (0b00000100, .feed [0x4B]),
      (0b00000101, .flush), (0b00000110, .finish), (0b00000000, .cmdReserved00), (0b00000111, .cmdReserved07),
      (0b00001011, .cmdReserved080F 0x0B), (0b00010110, .cmdReserved101F 0x16), (0b00101101, .cmdReserved203F 0x2D),
      (0b01011010, .cmdReserved407F 0x5A), (0b10110100, .cmdReserved80FF 0xB4)] : List (Nat × Instr)).all
      (fun e => decide (decode ⟨.cmd, e.1, 0, [0x4B]⟩ = .ok e.2)) = true := by decide

/-- Block headers of R82: bit 0 is BFINAL, bits [2:1] are BTYPE. -/
theorem test_decode_headers :
    ([(0b000, .blockStored false), (0b001, .blockStored true), (0b010, .blockFixed false), (0b011, .blockFixed true),
      (0b100, .blockDynamic false), (0b101, .blockDynamic true), (0b110, .blockReserved false),
      (0b111, .blockReserved true)] : List (Nat × Instr)).all
      (fun e => decide (decode ⟨.blockHdr, e.1, 0, []⟩ = .ok e.2)) = true := by decide

/-- Literal/length symbols: the fixed code of the symbol (R94), first stream bit leftmost, its extra bits (R91) as a
number and its width. The fetch reads exactly these bits and gives the row with its operand. -/
def litlenWords : List (Nat × Nat × Nat × Nat × Instr) := [
  (0b10010001, 8, 0, 0, .lit000_127 0x61), (0b10111111, 8, 0, 0, .lit128_143 0x8F),
  (0b110010000, 9, 0, 0, .lit144_159 0x90), (0b110110101, 9, 0, 0, .lit160_191 0xB5),
  (0b111111111, 9, 0, 0, .lit192_255 0xFF), (0b0000000, 7, 0, 0, .eob), (0b0000001, 7, 0, 0, .len257 0),
  (0b0000010, 7, 0, 0, .len258 0), (0b0000011, 7, 0, 0, .len259 0), (0b0000100, 7, 0, 0, .len260 0),
  (0b0000101, 7, 0, 0, .len261 0), (0b0000110, 7, 0, 0, .len262 0), (0b0000111, 7, 0, 0, .len263 0),
  (0b0001000, 7, 0, 0, .len264 0), (0b0001001, 7, 1, 1, .len265 1), (0b0001010, 7, 1, 1, .len266 1),
  (0b0001011, 7, 1, 1, .len267 1), (0b0001100, 7, 1, 1, .len268 1), (0b0001101, 7, 2, 2, .len269 2),
  (0b0001110, 7, 3, 2, .len270 3), (0b0001111, 7, 2, 2, .len271 2), (0b0010000, 7, 3, 2, .len272 3),
  (0b0010001, 7, 4, 3, .len273 4), (0b0010010, 7, 7, 3, .len274 7), (0b0010011, 7, 4, 3, .len275 4),
  (0b0010100, 7, 7, 3, .len276 7), (0b0010101, 7, 8, 4, .len277 8), (0b0010110, 7, 15, 4, .len278 15),
  (0b0010111, 7, 8, 4, .len279 8), (0b11000000, 8, 15, 4, .len280 15), (0b11000001, 8, 16, 5, .len281 16),
  (0b11000010, 8, 31, 5, .len282 31), (0b11000011, 8, 16, 5, .len283 16), (0b11000100, 8, 31, 5, .len284 31),
  (0b11000101, 8, 0, 0, .len285 0), (0b11000110, 8, 0, 0, .litlenInvalid286_287 0),
  (0b11000111, 8, 0, 0, .litlenInvalid286_287 1)]

theorem test_fetch_litlen_symbols :
    litlenWords.all (fun e => decide
      (fetchSymbol .litlenSym fixedLT (openAt .sym (bitsMSB e.1 e.2.1 ++ bitsLSB e.2.2.1 e.2.2.2.1 ++ [true])) =
        .element e.2.2.2.2 (advance (e.2.1 + e.2.2.2.1)
          (openAt .sym (bitsMSB e.1 e.2.1 ++ bitsLSB e.2.2.1 e.2.2.2.1 ++ [true]))))) = true := by decide +kernel

/-- Distance symbols: the five code bits (R95), the extra bits (R93) as a number and its width. -/
def distWords : List (Nat × Nat × Nat × Instr) := [
  (0b00000, 0, 0, .dist0 0), (0b00001, 0, 0, .dist1 0), (0b00010, 0, 0, .dist2 0), (0b00011, 0, 0, .dist3 0),
  (0b00100, 1, 1, .dist4 1), (0b00101, 1, 1, .dist5 1), (0b00110, 2, 2, .dist6 2), (0b00111, 3, 2, .dist7 3),
  (0b01000, 4, 3, .dist8 4), (0b01001, 7, 3, .dist9 7), (0b01010, 8, 4, .dist10 8),
  (0b01011, 15, 4, .dist11 15), (0b01100, 16, 5, .dist12 16), (0b01101, 31, 5, .dist13 31),
  (0b01110, 32, 6, .dist14 32), (0b01111, 63, 6, .dist15 63), (0b10000, 64, 7, .dist16 64),
  (0b10001, 127, 7, .dist17 127), (0b10010, 128, 8, .dist18 128), (0b10011, 255, 8, .dist19 255),
  (0b10100, 256, 9, .dist20 256), (0b10101, 511, 9, .dist21 511), (0b10110, 512, 10, .dist22 512),
  (0b10111, 1023, 10, .dist23 1023), (0b11000, 1024, 11, .dist24 1024), (0b11001, 2047, 11, .dist25 2047),
  (0b11010, 2048, 12, .dist26 2048), (0b11011, 4095, 12, .dist27 4095), (0b11100, 4096, 13, .dist28 4096),
  (0b11101, 8191, 13, .dist29 8191), (0b11110, 0, 0, .distInvalid30_31 0), (0b11111, 0, 0, .distInvalid30_31 1)]

theorem test_fetch_distance_symbols :
    distWords.all (fun e => decide
      (fetchSymbol .distSym fixedDT (openAt .sym (bitsMSB e.1 5 ++ bitsLSB e.2.1 e.2.2.1 ++ [true])) =
        .element e.2.2.2 (advance (5 + e.2.2.1)
          (openAt .sym (bitsMSB e.1 5 ++ bitsLSB e.2.1 e.2.2.1 ++ [true]))))) = true := by decide +kernel

/-- Code-length symbols (R88) under a code of five bits each, so that a symbol's code is its number. -/
theorem test_fetch_code_length_symbols :
    ([(0b00000, 0, 0, .cl 0), (0b01111, 0, 0, .cl 15), (0b10000, 2, 2, .rep16 2), (0b10001, 4, 3, .repz17 4),
      (0b10010, 86, 7, .repz18 86)] : List (Nat × Nat × Nat × Instr)).all (fun e => decide
      (fetchSymbol .clSym (rawTable cl5)
          { openAt .dynLens (bitsMSB e.1 5 ++ bitsLSB e.2.1 e.2.2.1 ++ [true]) with lens := [3] } =
        .element e.2.2.2 (advance (5 + e.2.2.1)
          { openAt .dynLens (bitsMSB e.1 5 ++ bitsLSB e.2.1 e.2.2.1 ++ [true]) with lens := [3] }))) = true := by
  decide +kernel

/-- Codes of no format are refused by name (R100). -/
theorem test_decode_refuses_other_codes :
    decode ⟨.litlenSym, 288, 0, []⟩ = .error (.noSuchCode .litlenSym 288) ∧
      decode ⟨.clSym, 19, 0, []⟩ = .error (.noSuchCode .clSym 19) ∧
      decode ⟨.cmd, 256, 0, []⟩ = .error (.noSuchCode .cmd 256) ∧
      decode ⟨.blockHdr, 8, 0, []⟩ = .error (.noSuchCode .blockHdr 8) ∧
      decode ⟨.distSym, 4, 2, []⟩ = .error (.extraTooWide .distSym 4 2) := by decide

/-- A word of the table's numbering is decoded, and is what the next step runs. -/
theorem test_table_words :
    decodeTableWord 8 0x05 = some .flush ∧ decodeTableWord 16 274 = some (.len274 0) ∧
      decodeTableWord 3 0b011 = some (.blockFixed true) ∧ decodeTableWord 5 29 = some (.dist29 0) := by decide

theorem test_fetched_words_run :
    nextSat (step (State.reset.withFetchWord 8 0x03)) (fun s => s.mode = .decompress) = true ∧
      nextSat (step (State.reset.withFetchWord 16 0x41)) (fun s => s.out = [0x41]) = true ∧
      nextSat (step (State.reset.withFetchWord 16 285)) (fun s => s.pendLen = some 258) = true ∧
      nextSat (step (State.reset.withFetchWord 3 0b111)) (fun s => s.err = some .malformedBlockType) = true := by
  decide +kernel

/-! ## Operations, with the expected values of spec/95_test_vectors.md -/

/-- V-B1: `PutBits(5,3); PutBits(0xABCD,16); AlignOut` gives `6D 5E 05`. -/
theorem test_put_fields :
    (alignOut (putBits 0xABCD 16 (putBits 5 3 State.reset))).out = [0x6D, 0x5E, 0x05] := by decide +kernel

/-- V-B2: codes go most significant bit first, fields least significant bit first: `ED 00`. -/
theorem test_put_codes :
    (alignOut (putCode 0b110 3 (putBits 0b101 3 (putCode 0b101 3 State.reset)))).out = [0xED, 0x00] := by
  decide +kernel

/-- V-B15, V-B20, V-B19, V-B21: a code that is not complete holds; the empty table and an unused code fault. -/
theorem test_decodeSym_corners :
    decodeSym fixedLT (bytesBits [0xFF]) = .hold ∧ decodeSym (rawTable [0, 0, 0]) [true] = .unassigned ∧
      decodeSym (rawTable [0, 1, 0, 0]) [true] = .unassigned ∧
      decodeSym (rawTable [3, 3, 3, 3, 3, 2, 4, 4]) (bytesBits [0x07]) = .sym 6 4 := by decide +kernel

/-- V-W1, V-W2: one byte, then `copy(1, 50)`. -/
theorem test_append_and_overlapping_copy :
    adler (windowAppend 0x61 (openAt .sym [])) = 0x00620062 ∧
      adler (windowCopy 1 50 (windowAppend 0x61 (openAt .sym []))) = 0xF6B01354 ∧
      (windowCopy 1 50 (windowAppend 0x61 (openAt .sym []))).out = List.replicate 51 0x61 := by decide +kernel

/-- V-W7: a copy at the distance of the whole window reads each cell before it overwrites it; R140: the write pointer
wraps. -/
theorem test_ring_wraps :
    (windowCopy 512 5 fullWindow).out = [0x58, 0x59, 0x5A, 0x5B, 0x5C] ∧
      ((windowCopy 512 5 fullWindow).wpos, (windowCopy 512 5 fullWindow).wtotal) = (93, 605) ∧
      (windowAppend 1 { fullWindow with wpos := 511, wtotal := 511 }).wpos = 0 := by decide +kernel

/-- Section 5: hash values. -/
theorem test_hash_values :
    hash3 0x61 0x61 0x61 = 0x0841 ∧ hash3 0x61 0x62 0x63 = 0x0823 ∧ hash3 0x68 0x65 0x6C = 0x2CCC ∧
      hash3 0xFF 0xFF 0xFF = 0x631F := by decide

/-- V-H5, V-H11, V-H12: the tie rule, and length limiting. -/
theorem test_buildLengths :
    buildLengths [1, 1, 1, 1, 1] 15 = [3, 3, 2, 2, 2] ∧
      buildLengths [1, 1, 2, 3, 5, 8, 13] 4 = [4, 4, 4, 4, 3, 3, 1] ∧
      buildLengths [1, 1, 2, 3, 5, 8, 13, 21, 34, 55] 7 = [7, 7, 7, 7, 6, 6, 4, 3, 2, 1] ∧
      assignCanonicalCodes [3, 3, 2, 2, 2] = [0b110, 0b111, 0b00, 0b01, 0b10] := by decide +kernel

/-- The example of R207. -/
theorem test_rle :
    rle (List.replicate 97 0 ++ [2] ++ List.replicate 158 0 ++ [2]) =
      [(18, 86), (2, 0), (18, 127), (18, 9), (2, 0)] := by decide +kernel

/-- V-C6: the three costs of a block of 24 literals `00`. -/
theorem test_block_costs :
    storedCost 0 24 = 232 ∧ fixedCost (List.replicate 24 (.literal 0)) = 202 ∧
      dynCost (dynPlan (List.replicate 24 (.literal 0))) (List.replicate 24 (.literal 0)) = 118 := by decide +kernel

/-! ## Commands, one step each -/

/-- R292. -/
theorem test_reset :
    nextSat (exec .reset { compressing [0x61] with level := 3 }) (fun s =>
      s.level = 6 ∧ s.mode = .none ∧ s.phase = .idle ∧ s.la = []) = true := by decide +kernel

/-- R293: level 9 gives effort 4096, level 10 gives `ERR = 0x0008`. -/
theorem test_cinit :
    nextSat (exec .cinit { State.reset with level := 9 }) (fun s => s.effort = 4096 ∧ statusWord s = 0x05) = true ∧
      nextSat (exec .cinit { State.reset with level := 10 }) (fun s => errWord s = 0x0008 ∧ s.phase = .fault) = true := by
  decide +kernel

/-- R294. -/
theorem test_dinit :
    nextSat (exec .dinit { compressing [0x61] with outLimit := 7 }) (fun s =>
      statusWord s = 0x06 ∧ s.outLimit = 7 ∧ s.la = []) = true := by decide +kernel

/-- R295: `FEED 4B 04 00` returns `61`, ends with `PHASE = DONE`, `|INQ| = 6`. -/
theorem test_feed_decompress :
    nextSat (exec (.feed [0x4B, 0x04, 0x00]) (openAt .hdr [])) (fun s =>
      s.out = [0x61] ∧ s.phase = .done ∧ s.trail = false ∧ s.inq.length = 6) = true := by decide +kernel

/-- V-C6 decoded: a dynamic block of 24 literals `00`. -/
theorem test_feed_dynamic_block :
    nextSat (exec (.feed [0x05, 0xC0, 0x81, 0x08, 0x00, 0x00, 0x00, 0x00, 0xA0, 0xFD, 0xA9, 0x0F, 0x00, 0x00, 0x20])
      (openAt .hdr [])) (fun s => s.out = List.replicate 24 0 ∧ s.phase = .done) = true := by decide +kernel

/-- R296: `FEED 61 62 63; FLUSH` returns `4A 4C 4A 06 00 00 00 FF FF`. -/
theorem test_flush :
    nextSat (exec .flush (compressing [0x61, 0x62, 0x63])) (fun s =>
      s.out = [0x4A, 0x4C, 0x4A, 0x06, 0x00, 0x00, 0x00, 0xFF, 0xFF]) = true := by decide +kernel

/-- V-C2: one byte `61` gives `4B 04 00`. -/
theorem test_finish_compress :
    nextSat (exec .finish (compressing [0x61])) (fun s => s.out = [0x4B, 0x04, 0x00] ∧ s.phase = .finished) = true := by
  decide +kernel

/-- The example of R297: five bits left, `ERR = 0x0001`, `ERR_POS = 11`. -/
theorem test_finish_truncated :
    nextSat (exec .finish { openAt .sym (List.replicate 5 false) with bitposIn := 11 }) (fun s =>
      errWord s = 0x0001 ∧ s.errPos = 11 ∧ s.phase = .fault) = true := by decide

/-- R298. -/
theorem test_reserved_commands :
    ([.cmdReserved00, .cmdReserved07, .cmdReserved080F 0x08, .cmdReserved101F 0x10, .cmdReserved203F 0x20,
      .cmdReserved407F 0x40, .cmdReserved80FF 0x80] : List Instr).all
      (fun i => nextSat (exec i State.reset) fun s => errWord s = 0x0009 ∧ s.phase = .fault) = true := by decide

/-! ## Stream elements, one step each -/

/-- R231. -/
theorem test_headers :
    nextSat (exec (.blockStored true) (openAt .hdr [])) (fun s => s.dstate = .storedLen ∧ s.bfinal) = true ∧
      nextSat (exec (.blockFixed false) (openAt .hdr [])) (fun s => s.dstate = .sym ∧ s.lt = fixedLT) = true ∧
      nextSat (exec (.blockDynamic true) (openAt .hdr [])) (fun s => s.dstate = .dynHdr) = true ∧
      nextSat (exec (.blockReserved true) (openAt .hdr [])) (fun s =>
        errWord s = 0x0002 ∧ s.bfinal = false ∧ s.dstate = .hdr) = true := by decide +kernel

/-- R255, R236: a literal, and a literal over the cap. -/
theorem test_literals :
    ([.lit000_127 0x61, .lit128_143 0x8F, .lit144_159 0x90, .lit160_191 0xA0, .lit192_255 0xFF] : List Instr).all
        (fun i => nextSat (exec i (openAt .sym [])) fun s => s.wtotal = 1 ∧ s.out.length = 1 ∧ s.err = none) = true ∧
      nextSat (exec (.lit000_127 0x61) { openAt .sym [] with outLimit := 0 }) (fun s =>
        errWord s = 0x0006 ∧ s.out = []) = true := by decide +kernel

/-- R259. -/
theorem test_eob :
    nextSat (exec .eob { openAt .sym [] with bfinal := true }) (fun s => s.dstate = .done) = true ∧
      nextSat (exec .eob (openAt .sym [])) (fun s => s.dstate = .hdr) = true := by decide

/-- R91: the lengths of the table, at the largest extra value of each symbol. -/
theorem test_length_symbols :
    ([(.len257 0, 3), (.len258 0, 4), (.len259 0, 5), (.len260 0, 6), (.len261 0, 7), (.len262 0, 8),
      (.len263 0, 9), (.len264 0, 10), (.len265 1, 12), (.len266 1, 14), (.len267 1, 16), (.len268 1, 18),
      (.len269 3, 22), (.len270 3, 26), (.len271 3, 30), (.len272 3, 34), (.len273 7, 42), (.len274 7, 50),
      (.len275 7, 58), (.len276 7, 66), (.len277 15, 82), (.len278 15, 98), (.len279 15, 114),
      (.len280 15, 130), (.len281 31, 162), (.len282 31, 194), (.len283 31, 226), (.len284 31, 258),
      (.len285 0, 258)] : List (Instr × Nat)).all
      (fun e => nextSat (exec e.1 (openAt .sym [])) fun s => s.pendLen = some e.2) = true := by decide

/-- R93, R143: each distance symbol at its largest extra value, with one byte of history less than its distance. -/
theorem test_distance_symbols_too_far :
    ([(.dist0 0, 1), (.dist1 0, 2), (.dist2 0, 3), (.dist3 0, 4), (.dist4 1, 6), (.dist5 1, 8), (.dist6 3, 12),
      (.dist7 3, 16), (.dist8 7, 24), (.dist9 7, 32), (.dist10 15, 48), (.dist11 15, 64), (.dist12 31, 96),
      (.dist13 31, 128), (.dist14 63, 192), (.dist15 63, 256), (.dist16 127, 384), (.dist17 127, 512),
      (.dist18 255, 768), (.dist19 255, 1024), (.dist20 511, 1536), (.dist21 511, 2048), (.dist22 1023, 3072),
      (.dist23 1023, 4096), (.dist24 2047, 6144), (.dist25 2047, 8192), (.dist26 4095, 12288),
      (.dist27 4095, 16384), (.dist28 8191, 24576), (.dist29 8191, 32768)] : List (Instr × Nat)).all
      (fun e => nextSat (exec e.1 { openAt .sym [] with pendLen := some 3, whave := e.2 - 1, wtotal := e.2 - 1 })
        fun s => s.err = some .distanceTooFar ∧ s.out = []) = true := by decide

/-- R258, R142: a match of length 5 at distance 3 over `61 62 63`, and the test order of R330. -/
theorem test_match_copies :
    nextSat (exec (.dist2 0) { threeBytes .sym [] with pendLen := some 5 }) (fun s =>
        s.out = [0x61, 0x62, 0x63, 0x61, 0x62, 0x63, 0x61, 0x62] ∧ s.wpos = 8) = true ∧
      nextSat (exec (.dist3 0) { threeBytes .sym [] with pendLen := some 5, outLimit := 3 }) (fun s =>
        s.err = some .distanceTooFar) = true ∧
      nextSat (exec (.dist2 0) { threeBytes .sym [] with pendLen := some 5, outLimit := 7 }) (fun s =>
        s.err = some .outputLimitExceeded ∧ s.out.length = 3) = true := by decide +kernel

/-- R256, R257. -/
theorem test_invalid_code_points :
    nextSat (exec (.litlenInvalid286_287 0) (openAt .sym [])) (fun s => errWord s = 0x0103) = true ∧
      nextSat (exec (.distInvalid30_31 1) (openAt .sym [])) (fun s => errWord s = 0x0203) = true := by decide

/-- R246: the four code-length items, and the two repeat faults. -/
theorem test_code_length_items :
    ([(.cl 7, [5, 7]), (.rep16 1, [5, 5, 5, 5, 5]), (.repz17 0, [5, 0, 0, 0]), (.repz18 0, 5 :: List.replicate 11 0)] :
      List (Instr × List (BitVec 4))).all (fun e =>
        nextSat (exec e.1 { openAt .dynLens [] with nlen := 257, ndist := 1, lens := [5] }) fun s =>
          s.lens = e.2) = true ∧
      nextSat (exec (.rep16 0) { openAt .dynLens [] with nlen := 257, ndist := 1 }) (fun s =>
        errWord s = 0x0307) = true ∧
      nextSat (exec (.repz17 0) { openAt .dynLens [] with
        nlen := 257, ndist := 1, lens := List.replicate 256 1 }) (fun s => errWord s = 0x0407) = true := by
  decide +kernel

/-! ## Witnesses: concrete states and operands that meet the hypotheses of each statement, clause by clause -/

theorem witness_DecodeInvertsEncode :
    (Instr.dist29 0x1FFF).wellFormed = true ∧ (Instr.len284 31).wellFormed = true ∧
      (Instr.lit192_255 255).wellFormed = true ∧ (Instr.cmdReserved080F 8).wellFormed = true := by decide

theorem witness_EveryCodePointDecodes :
    decode ⟨.cmd, 4, 0, [1, 2]⟩ = .ok (.feed [1, 2]) ∧ decode ⟨.litlenSym, 284, 31, []⟩ = .ok (.len284 31) ∧
      decode ⟨.cmd, 255, 0, []⟩ = .ok (.cmdReserved80FF 255) ∧ decode ⟨.distSym, 31, 0, []⟩ = .ok (.distInvalid30_31 1) := by
  decide

theorem witness_FetchReadsEncodedSymbol :
    ((∀ l ∈ fixedLitLens, l ≤ 15) ∧ buildDecodeTable fixedLitLens = some fixedLT ∧
      (Instr.len284 31).wellFormed = true ∧ fixedLitLens.getD 284 0 ≠ 0 ∧
      unread (openAt .sym (symbolBits fixedLitLens .litlenSym 284 31 ++ [true])) =
        symbolBits fixedLitLens .litlenSym 284 31 ++ [true]) ∧
    ((∀ l ∈ cl5, l ≤ 15) ∧ buildDecodeTable cl5 = some (rawTable cl5) ∧ (Instr.rep16 3).wellFormed = true ∧
      cl5.getD 16 0 ≠ 0 ∧
      unread { openAt .dynLens (symbolBits cl5 .clSym 16 3 ++ [true]) with lens := [1] } =
        symbolBits cl5 .clSym 16 3 ++ [true]) ∧
    ((Instr.blockDynamic true).wellFormed = true ∧ (encode (.blockDynamic true)).format = .blockHdr ∧
      unread (openAt .hdr [true, false, true, false]) = bitsLSB (encode (.blockDynamic true)).code 3 ++ [false]) := by
  decide +kernel

theorem witness_CanonicalCodesDecodeBack :
    (∀ l ∈ [3, 3, 3, 3, 3, 2, 4, 4], l ≤ 15) ∧ overSubscribed [3, 3, 3, 3, 3, 2, 4, 4] = false ∧
      [3, 3, 3, 3, 3, 2, 4, 4].getD 7 0 ≠ 0 ∧ 6 ≠ 7 ∧ [3, 3, 3, 3, 3, 2, 4, 4].getD 6 0 ≠ 0 := by decide +kernel

theorem witness_DecodeTableIsSortedAndChecked :
    (∀ l ∈ [15, 0, 1], l ≤ 15) ∧ buildDecodeTable [15, 0, 1] = some (rawTable [15, 0, 1]) ∧
      buildDecodeTable [1, 1, 1] = none := by decide +kernel

theorem witness_BuiltLengthsMeetKraft :
    ([1, 1, 2, 3, 5, 8, 13, 21, 34, 55].countP (· != 0) ≤ 2 ^ 7 ∧ 9 < [1, 1, 2, 3, 5, 8, 13, 21, 34, 55].length) ∧
      [0, 5].countP (· != 0) = 1 ∧ [0, 0].countP (· != 0) = 0 := by decide

theorem witness_PutBitsAppends : State.reset.SinkInv ∧ (putBits 5 3 State.reset).SinkInv := by decide

theorem witness_AlignOutPadsWithZeros :
    (State.reset.SinkInv ∧ State.reset.onb = 0) ∧ (putBits 5 3 State.reset).SinkInv := by decide

theorem witness_WindowAppendStoresBytes :
    (SparseSorted fullWindow.win ∧ fullWindow.wpos < wsize fullWindow.params ∧
      fullWindow.whave ≤ wsize fullWindow.params ∧ fullWindow.mode = .decompress) ∧
    (SparseSorted (compressing []).win ∧ (compressing []).wpos < wsize (compressing []).params ∧
      (compressing []).whave ≤ wsize (compressing []).params ∧ (compressing []).mode ≠ .decompress) := by
  decide +kernel

/-- Distance 1 and the distance of the whole window. -/
theorem witness_WindowCopyRepeatsHistory :
    1 ≤ 1 ∧ 512 ≤ wsize fullWindow.params ∧ SparseSorted fullWindow.win ∧
      fullWindow.wpos < wsize fullWindow.params := by decide +kernel

/-- Levels 9 and 10. -/
theorem witness_CinitOpensCompressStream :
    { State.reset with level := 9 }.level.toNat ≤ 9 ∧ 9 < { State.reset with level := 10 }.level.toNat := by decide

theorem witness_FeedCompressTokenises :
    (compressing [0x61]).phase = .active ∧ (compressing [0x61]).mode = .compress ∧
      SparseSorted (compressing [0x61]).win ∧ (compressing [0x61]).wpos < wsize (compressing [0x61]).params ∧
      (compressing [0x61]).whave ≤ wsize (compressing [0x61]).params ∧ 1 ≤ (compressing [0x61]).la.length := by decide

/-- With 260 bytes one token is accepted, with 259 none. The second token of five equal bytes is a match of which two
positions have their three bytes. The token that passes the close threshold closes the block. -/
theorem witness_FeedCompressTokenises_tokens :
    nextSat (exec (.feed (List.replicate 260 0x61)) (compressing [])) (fun s =>
        s.tok = [.literal 0x61] ∧ s.la.length = 259) = true ∧
      nextSat (exec (.feed (List.replicate 259 0x61)) (compressing [])) (fun s => s.tok = []) = true ∧
      (acceptToken (acceptToken (compressing (List.replicate 5 0x61)))).tok = [.literal 0x61, .backref 4 1] ∧
      (acceptToken (acceptToken (compressing (List.replicate 5 0x61)))).prev = [(1, 0), (2, 1)] ∧
      (acceptToken { compressing [0x61] with blkBytes := 32509 }).blkBytes = 32510 ∧
      (acceptToken { compressing [0x61] with blkBytes := 32510 }).blkBytes = 0 := by decide +kernel

/-- One chunk for each of the three phases a FEED can end in. -/
theorem witness_FeedDecompressRunsToHold :
    ((openAt .hdr []).phase = .active ∧ (openAt .hdr []).mode = .decompress ∧ (openAt .hdr []).AtBoundary ∧
      (openAt .hdr []).TablesInv ∧ (openAt .hdr []).HeaderInv ∧ SparseSorted (openAt .hdr []).win ∧
      (openAt .hdr []).wpos < wsize (openAt .hdr []).params ∧
      (openAt .hdr []).whave ≤ wsize (openAt .hdr []).params) ∧
    nextSat (exec (.feed [0x4B, 0x04]) (openAt .hdr [])) (fun s => s.phase = .active) = true ∧
    nextSat (exec (.feed [0x4B, 0x04, 0x00]) (openAt .hdr [])) (fun s => s.phase = .done) = true ∧
    nextSat (exec (.feed [0x4F, 0x04, 0x00]) (openAt .hdr [])) (fun s => s.phase = .fault) = true := by
  decide +kernel

theorem witness_InputAfterEndIsDiscarded :
    (openAt .done []).mode = .decompress ∧ (openAt .done []).phase = .active ∧
      { openAt .done [] with phase := .done }.mode = .decompress ∧
      { openAt .done [] with phase := .done }.phase = .done := by decide

theorem witness_FlushForcesOutputOut :
    (compressing [0x61]).phase = .active ∧ (compressing [0x61]).mode = .compress ∧ (compressing [0x61]).SinkInv ∧
      SparseSorted (compressing [0x61]).win ∧ (compressing [0x61]).wpos < wsize (compressing [0x61]).params ∧
      (compressing [0x61]).whave ≤ wsize (compressing [0x61]).params := by decide

theorem witness_FinishCompressClosesStream :
    (compressing []).phase = .active ∧ (compressing []).mode = .compress ∧ (compressing []).SinkInv ∧
      SparseSorted (compressing []).win ∧ (compressing []).wpos < wsize (compressing []).params ∧
      (compressing []).whave ≤ wsize (compressing []).params := by decide

/-- A truncated stream; an ended one with the right checksum, with none asked for, and with a wrong one. -/
theorem witness_FinishDecompressChecksEnd :
    ((openAt .hdr []).mode = .decompress ∧ (openAt .hdr []).AtBoundary ∧ (openAt .hdr []).phase = .active) ∧
    ({ openAt .done [] with phase := .done, verify := true, ckExpect := 1 }.AtBoundary ∧
      adler { openAt .done [] with phase := .done, verify := true, ckExpect := 1 } = 1) ∧
    ({ openAt .done [] with phase := .done }.verify = false) ∧
    ({ openAt .done [] with phase := .done, verify := true }.verify = true ∧
      adler { openAt .done [] with phase := .done, verify := true } ≠ 0) := by decide

theorem witness_ReservedCommandsFault : State.reset.phase ≠ .fault ∧ State.reset.AtBoundary := by decide

/-- The values 0, 7 and 0x1FF for a reserved code; 4 and 6 in IDLE and in FINISHED. -/
theorem witness_BadCommandWritesFault :
    State.reset.AtBoundary ∧ State.reset.phase ≠ .fault ∧ State.reset.phase = .idle ∧
      { State.reset with phase := .finished }.phase = .finished ∧ (raise .wrongPhase State.reset).phase = .fault ∧
      ((0x100 : Word32).toNat % 256 = 0 ∧ 7 ≤ (0x107 : Word32).toNat % 256 ∧ 7 ≤ (0x1FF : Word32).toNat % 256) ∧
      (4 ≤ (4 : Word32).toNat % 256 ∧ (0xABCD06 : Word32).toNat % 256 ≤ 6) ∧
      { State.reset with hostq := [.write 0 0x107 [], .take] }.hostq = .write 0 0x107 [] :: [.take] := by decide

theorem witness_FaultIsSticky :
    (raise .wrongPhase State.reset).phase = .fault ∧ (raise .wrongPhase State.reset).hostq = [] := by decide

/-- A literal that reaches the cap exactly, and one that would exceed it by one. -/
theorem witness_LiteralsAppendOneByte :
    (openAt .sym []).mode = .decompress ∧
      { openAt .sym [] with outLimit := 1 }.totalOut + 1 ≤ { openAt .sym [] with outLimit := 1 }.outLimit.toNat ∧
      { openAt .sym [] with outLimit := 0 }.outLimit.toNat < { openAt .sym [] with outLimit := 0 }.totalOut + 1 := by
  decide

theorem witness_EndOfBlockEndsBlock :
    { openAt .sym [] with bfinal := true }.bfinal = true ∧ (openAt .sym []).bfinal = false := by decide

/-- A match at the distance of the whole history that reaches the cap exactly. -/
theorem witness_DistanceSymbolsCopyMatch :
    (threeBytes .sym []).mode = .decompress ∧ { threeBytes .sym [] with pendLen := some 5 }.pendLen = some 5 ∧
      SparseSorted (threeBytes .sym []).win ∧ (threeBytes .sym []).wpos < wsize (threeBytes .sym []).params ∧
      (threeBytes .sym []).whave ≤ wsize (threeBytes .sym []).params ∧
      { threeBytes .sym [] with outLimit := 8 }.totalOut + 5 ≤ { threeBytes .sym [] with outLimit := 8 }.outLimit.toNat ∧
      3 + (0 : BitVec 13).toNat ≤ (threeBytes .sym []).whave := by decide +kernel

/-- No length; one byte too far; within the history but one byte over the cap. -/
theorem witness_DistanceSymbolsCheckHistoryThenCap :
    (threeBytes .sym []).pendLen = none ∧ { threeBytes .sym [] with pendLen := some 5 }.pendLen = some 5 ∧
      (threeBytes .sym []).whave < 4 + (0 : BitVec 13).toNat ∧
      3 + (0 : BitVec 13).toNat ≤ (threeBytes .sym []).whave ∧
      { threeBytes .sym [] with outLimit := 7 }.outLimit.toNat <
        { threeBytes .sym [] with outLimit := 7 }.totalOut + 5 := by decide +kernel

/-- An item that leaves one length to come, one that runs one past the end, and a repeat with nothing before it. -/
theorem witness_CodeLengthItems :
    nextSat (exec (.cl 3) { openAt .dynLens [] with nlen := 257, ndist := 1, lens := List.replicate 256 1 })
        (fun s => s.lens = List.replicate 256 1 ++ [3] ∧ s.lens.length + 1 = s.nlen.toNat + s.ndist.toNat) = true ∧
      nextSat (exec (.rep16 0) { openAt .dynLens [] with nlen := 257, ndist := 1, lens := List.replicate 256 1 })
        (fun s => s.err = some .repeatOverrun ∧ s.nlen.toNat + s.ndist.toNat < s.lens.length + 3) = true ∧
      (openAt .dynLens []).lens = [] := by decide +kernel

/-- Lengths that finish a header with both tables, without a code for 256, and with an over-subscribed table. -/
theorem witness_LastCodeLengthFinishesHeader :
    (257 ≤ (257 : BitVec 9).toNat ∧ (257 : BitVec 9).toNat ≤ 286 ∧ (1 : BitVec 6).toNat ≤ 30 ∧
      (List.replicate 257 (9 : BitVec 4)).length + 1 = (257 : BitVec 9).toNat + (1 : BitVec 6).toNat) ∧
    nextSat (exec (.cl 0) { openAt .dynLens [] with nlen := 257, ndist := 1, lens := List.replicate 257 9 })
      (fun s => s.dstate = .sym ∧ s.lt.sorted.length = 257 ∧ s.dt.sorted = []) = true ∧
    nextSat (exec (.cl 0) { openAt .dynLens [] with nlen := 257, ndist := 1, lens := List.replicate 257 0 })
      (fun s => s.err = some .noEobCode) = true ∧
    nextSat (exec (.cl 0) { openAt .dynLens [] with nlen := 257, ndist := 1, lens := List.replicate 257 1 })
      (fun s => s.err = some .oversubscribed) = true := by decide +kernel

theorem witness_InsertMakesChainHead :
    SparseSorted (insertPos 0 (compressing [0x61, 0x61, 0x61, 0x61])).head ∧
      SparseSorted (insertPos 0 (compressing [0x61, 0x61, 0x61, 0x61])).prev := by decide

/-- V-M3 after its first token: a match of length 3 at distance 1. -/
theorem witness_FindMatchIsSound :
    (acceptToken (compressing [0x61, 0x61, 0x61, 0x61])).ChainInv ∧
      findMatch (acceptToken (compressing [0x61, 0x61, 0x61, 0x61])) 1 128 3 = some ⟨3, 1⟩ := by decide +kernel

/-- No match at the first byte; V-M9 at position 8: the longer of two candidates, the farther one. -/
theorem witness_FindMatchIsLongestFirst :
    findMatch (compressing [0x61, 0x61, 0x61]) 0 128 3 = none ∧
      findMatch (acceptToken (acceptToken (acceptToken (acceptToken (acceptToken (acceptToken
        (compressing [0x61, 0x62, 0x63, 0x64, 0x61, 0x62, 0x63, 0x78, 0x61, 0x62, 0x63, 0x64]))))))) 8 128 4 =
        some ⟨4, 8⟩ := by decide +kernel

theorem witness_EmitBlockAddsCheapestCost :
    (emitBlock true (compressing [])).bitposOut = 10 ∧ (emitBlock true (compressing [])).onb = 2 := by decide +kernel

theorem witness_EmptyFinalBlockIsFixed :
    (compressing []).phase = .active ∧ (compressing []).mode = .compress ∧ (compressing []).SinkInv ∧
      (compressing []).la = [] ∧ (compressing []).tok = [] ∧ (compressing []).blkBytes = 0 ∧
      (compressing []).onb = 0 := by decide

/-- One token of each kind, at the ends of the format's ranges. -/
theorem witness_EmittedSymbolsHaveCodes :
    distSymbol (.backref 258 32768) = some 29 ∧ litLenSymbol (.backref 258 32768) = 285 ∧
      (dynPlan [.literal 255, .backref 3 1]).cls ≠ [] := by decide +kernel

theorem witness_RunLengthItemsExpandBack :
    (∀ l ∈ [0, 15, 15, 15, 15, 0], l ≤ 15) ∧ rle [0, 15, 15, 15, 15, 0] ≠ [] := by decide

/-- A read, a register beyond the map, a write to each configuration register and to a read-only one, and a take from
an output stream with two bytes and from an empty one. -/
theorem witness_HostRegisterAccess :
    ([2, 3, 4, 5, 6] : List Nat).all (fun n => nextSat
        (step { State.reset with hostq := [.write n 0x12345603 [], .take] }) fun s =>
          s.hostq = [.take] ∧ s.level = (if n = 2 then 3 else 6) ∧ s.verify = decide (n = 4)) = true ∧
      nextSat (step { State.reset with hostq := [.read 2] }) (fun s => s.rdata = 6 ∧ s.hostq = []) = true ∧
      14 ≤ 14 ∧ { State.reset with hostq := [.write 14 1 []] }.hostq = .write 14 1 [] :: [] ∧
      nextSat (step { State.reset with hostq := [.take, .take], out := [0x61, 0x62] })
        (fun s => s.rdata = 0x61 ∧ s.out = [0x62] ∧ s.hostq = [.take]) = true ∧
      nextSat (step { State.reset with hostq := [.take] }) (fun s => s = State.reset) = true := by decide +kernel

theorem witness_StatusAndErrRegisters :
    State.reset.err = none ∧ (readReg 7 (raise .noEobCode State.reset)).toNat = 0x0607 := by decide

theorem witness_StepRunsWrittenCommand :
    { State.reset with hostq := [.write 0 0xFFFFFF03 [0x4B], .take] }.hostq = .write 0 0xFFFFFF03 [0x4B] :: [.take] ∧
      decode ⟨.cmd, (0xFFFFFF03 : Word32).toNat % 256, 0, [0x4B]⟩ = .ok .dinit := by decide

/-- A literal, and a length symbol whose distance symbol is there. -/
theorem witness_StepRunsFetchedElement :
    (decoding { openAt .sym (bitsMSB 0x91 8) with lt := fixedLT } = true ∧
      (openAt .sym (bitsMSB 0x91 8)).hostq = [] ∧
      fetchElement { openAt .sym (bitsMSB 0x91 8) with lt := fixedLT } =
        some (.element (.lit000_127 0x61) (advance 8 { openAt .sym (bitsMSB 0x91 8) with lt := fixedLT })) ∧
      nextSat (exec (.lit000_127 0x61) (advance 8 { openAt .sym (bitsMSB 0x91 8) with lt := fixedLT }))
        (fun u => !distanceHolds u) = true) ∧
    nextSat (step { openAt .sym (bitsMSB 0b0000001 7 ++ bitsMSB 0 5) with lt := fixedLT, dt := fixedDT })
      (fun u => u.pendLen = some 3 ∧ u.cursor = 7) = true := by decide +kernel

/-- No stream; a header with two bits; bits of no code; a length symbol without its distance symbol. -/
theorem witness_StepHoldsOrFaultsOnBits :
    decoding State.reset = false ∧
      (decoding (openAt .hdr [true, true]) = true ∧ (openAt .hdr [true, true]).AtBoundary ∧
        (decoderStep exec (openAt .hdr [true, true])).isNone = true) ∧
      (decoding (openAt .sym [true]) = true ∧
        fetchElement (openAt .sym [true]) = some .unassigned) ∧
      (fetchElement { openAt .sym (bitsMSB 1 7) with lt := fixedLT, dt := fixedDT } =
          some (.element (.len257 0) (advance 7 { openAt .sym (bitsMSB 1 7) with lt := fixedLT, dt := fixedDT })) ∧
        nextSat (exec (.len257 0) (advance 7 { openAt .sym (bitsMSB 1 7) with lt := fixedLT, dt := fixedDT }))
          (fun u => u.pendLen ≠ none ∧ fetchElement u = some .hold) = true) := by decide +kernel

/-- R233's example `03 00 FC FF` behind a header at bit 0: a hold, a wrong complement, the cap exceeded by one, the cap
reached, and an empty block. -/
theorem witness_StoredLengthStep :
    (decoding { openAt .storedLen [] with bitposIn := 3 } = true ∧
      { openAt .storedLen [] with bitposIn := 3 }.AtBoundary ∧
      (List.replicate 5 true).length = (8 - { openAt .storedLen [] with bitposIn := 3 }.bitposIn % 8) % 8) ∧
    ([(3, 0xFFFB, 3, 5), (3, 0xFFFC, 2, 1), (3, 0xFFFC, 3, 2), (0, 0xFFFF, 0, 3)] : List (Nat × Nat × Nat × Nat)).all
      (fun e => nextSat (step { openAt .storedLen
          (List.replicate 5 true ++ bitsLSB e.1 16 ++ bitsLSB e.2.1 16 ++ [true]) with
          bitposIn := 3, outLimit := .ofNat 32 e.2.2.1 }) fun s =>
        if e.2.2.2 = 5 then s.err = some .storedLenCheck
        else if e.2.2.2 = 1 then s.err = some .outputLimitExceeded
        else if e.2.2.2 = 2 then s.dstate = .storedCopy ∧ s.rem = 3 ∧ s.inq = [true]
        else s.dstate = .hdr ∧ s.bitposIn = 40) = true ∧
    (List.replicate 36 true).length < (List.replicate 5 true).length + 32 := by decide +kernel

theorem witness_StoredCopyStep :
    decoding (openAt .storedCopy (byteBits 0x61)) = true ∧
      (openAt .storedCopy (byteBits 0x61)).AtBoundary ∧ (openAt .storedCopy [true]).inq.length < 8 ∧
      nextSat (step { openAt .storedCopy (byteBits 0x61) with rem := 1, bfinal := true }) (fun s =>
        s.out = [0x61] ∧ s.dstate = .done) = true ∧
      nextSat (step { openAt .storedCopy (byteBits 0x61) with rem := 2 }) (fun s =>
        s.dstate = .storedCopy ∧ s.rem = 1) = true := by decide +kernel

/-- Counts at the ends of their ranges, and one beyond each. -/
theorem witness_DynamicCountsStep :
    ([(29, 29, 15, true), (30, 0, 0, false), (0, 30, 0, false)] : List (Nat × Nat × Nat × Bool)).all (fun e =>
      decoding (openAt .dynHdr []) ∧ nextSat
        (step (openAt .dynHdr (bitsLSB e.1 5 ++ bitsLSB e.2.1 5 ++ bitsLSB e.2.2.1 4 ++ [true]))) fun s =>
        if e.2.2.2 then s.dstate = .dynCl ∧ s.nlen = 286 ∧ s.ndist = 30 ∧ s.ncode = 19
        else s.err = some .tooManyCodes) = true := by decide +kernel

/-- A length that is not the last; the last one; one that over-subscribes the code. -/
theorem witness_CodeLengthCodeStep :
    nextSat (step { openAt .dynCl (bitsLSB 7 3) with ncode := 19, idx := 17 }) (fun s =>
        s.idx = 18 ∧ s.cll[1] = 7 ∧ s.dstate = .dynCl) = true ∧
      nextSat (step { openAt .dynCl (bitsLSB 7 3) with ncode := 19, idx := 18 }) (fun s =>
        s.cll[15] = 7 ∧ s.dstate = .dynLens ∧ s.clt.sorted = [15]) = true ∧
      nextSat (step { openAt .dynCl (bitsLSB 1 3) with ncode := 4, idx := 3, cll := Vector.replicate 19 1 }) (fun s =>
        s.err = some .oversubscribed ∧ s.idx = 3) = true := by decide +kernel

theorem witness_StepKeepsWindowAndChecksum :
    (State.reset.MemWF ∧ State.reset.WindowInv ∧ State.reset.ChecksumInv) ∧
      (fullWindow.MemWF ∧ fullWindow.WindowInv ∧ fullWindow.ChecksumInv) ∧
      nextSat (step { openAt .sym (bitsMSB 0x91 8) with lt := fixedLT }) (fun t => t.wtotal = 1) = true := by
  decide +kernel

theorem witness_StepKeepsPhaseAndDecoder :
    (openAt .hdr []).FaultInv ∧ (openAt .hdr []).PhaseInv ∧ (openAt .hdr []).TablesInv ∧
      (openAt .hdr []).HeaderInv := by decide

theorem witness_StepKeepsEncoder :
    (compressing [0x61]).params.Legal ∧ (compressing [0x61]).SinkInv ∧ (compressing [0x61]).CountInv ∧
      (compressing [0x61]).BlockInv ∧ (compressing [0x61]).ChainInv ∧
      nextSat (step { compressing [0x61] with hostq := [.write 0 6 []] }) (fun t => t.out = [0x4B, 0x04, 0x00]) = true := by
  decide +kernel

/-- A stored block whose last byte reaches the cap. -/
theorem witness_StepKeepsOutputCap :
    { openAt .storedCopy (byteBits 0x61) with rem := 1, outLimit := 1 }.CapInv ∧
      nextSat (step { openAt .storedCopy (byteBits 0x61) with rem := 1, outLimit := 1 }) (fun t => t.totalOut = 1) =
        true := by decide +kernel

theorem witness_InstructionsKeepHostSide :
    nextSat (exec .finish (compressing [0x61])) (fun t => t.out.length = 3) = true ∧ Instr.finish ≠ .reset := by
  decide +kernel

theorem witness_FaultingElementChangesNothing :
    (encode (.blockReserved true)).format ≠ .cmd ∧ (openAt .hdr []).phase ≠ .fault ∧
      nextSat (exec (.blockReserved true) (openAt .hdr [])) (fun t => t.phase = .fault) = true := by decide

theorem witness_CompressIgnoresChunking :
    (compressing [0x61]).phase = .active ∧ (compressing [0x61]).mode = .compress ∧ (compressing [0x61]).ChainInv := by
  decide

theorem witness_DecompressIgnoresChunking :
    (openAt .hdr []).phase = .active ∧ (openAt .hdr []).mode = .decompress ∧ (openAt .hdr []).AtBoundary ∧
      (openAt .hdr []).TablesInv ∧ (openAt .hdr []).HeaderInv := by decide

/-- The legal parameters, level 9, and a cap that the data reach exactly. -/
theorem witness_DecompressInvertsCompress :
    State.reset.params.Legal ∧ { State.reset with level := 9 }.level.toNat ≤ 9 ∧
      [[0x4B], [], [0x04, 0x00]].flatten = ([0x4B, 0x04, 0x00] : List Byte) ∧
      ([[0x61]] : List (List Byte)).flatten.length ≤ { State.reset with outLimit := 1 }.outLimit.toNat := by decide

end Sys2Proof.Tests
end

/-! PROOFS. What one transition of the decoder can do: an inversion lemma over every stream element and every plain
step (spec 45_inflate R230 to R261), and the conditions under which a transition completes. -/

namespace Sys2Proof.Machine

/-! ## Decoded elements -/

/-- How many codes a format of the stream has (R100). -/
def streamCodes : Format → Nat
  | .cmd => 0
  | .blockHdr => 8
  | .litlenSym => 288
  | .distSym => 32
  | .clSym => 19

theorem lenRows_format {row : BitVec 5 → Instr} (h : row ∈ lenRows) (x : BitVec 5) :
    (encode (row x)).format = .litlenSym := by
  revert row
  simp only [lenRows, List.forall_mem_cons]
  simp [encode]

theorem distRows_format {row : BitVec 13 → Instr} (h : row ∈ distRows) (x : BitVec 13) :
    (encode (row x)).format = .distSym := by
  revert row
  simp only [distRows, List.forall_mem_cons]
  simp [encode]

theorem decodeCmd_format {code : Nat} {chunk : List Byte} {i : Instr} (h : decodeCmd code chunk = .ok i) :
    (encode i).format = .cmd := by
  unfold decodeCmd at h
  iterate 13
    rcases ite_eq_iff.mp h with ⟨-, hi⟩ | ⟨-, h⟩
    · cases hi; rfl
  cases h

theorem decodeHdr_format {code : Nat} {i : Instr} (h : decodeHdr code = .ok i) : (encode i).format = .blockHdr := by
  unfold decodeHdr at h
  iterate 4
    rcases ite_eq_iff.mp h with ⟨-, hi⟩ | ⟨-, h⟩
    · cases hi; rfl
  cases h

theorem decodeLitLen_format {sym extra : Nat} {i : Instr} (h : decodeLitLen sym extra = .ok i) :
    (encode i).format = .litlenSym := by
  unfold decodeLitLen at h
  iterate 7
    rcases ite_eq_iff.mp h with ⟨-, hi⟩ | ⟨-, h⟩
    · cases hi; rfl
  split at h
  · cases h
  · next row hrow =>
    rcases ite_eq_iff.mp h with ⟨-, hi⟩ | ⟨-, h⟩
    · cases hi; exact lenRows_format (List.mem_of_getElem? hrow) _
    · cases h

theorem decodeDist_format {sym extra : Nat} {i : Instr} (h : decodeDist sym extra = .ok i) :
    (encode i).format = .distSym := by
  unfold decodeDist at h
  rcases ite_eq_iff.mp h with ⟨-, hi⟩ | ⟨-, h⟩
  · cases hi; rfl
  split at h
  · cases h
  · next row hrow =>
    rcases ite_eq_iff.mp h with ⟨-, hi⟩ | ⟨-, h⟩
    · cases hi; exact distRows_format (List.mem_of_getElem? hrow) _
    · cases h

theorem decodeCl_format {sym extra : Nat} {i : Instr} (h : decodeCl sym extra = .ok i) :
    (encode i).format = .clSym := by
  unfold decodeCl at h
  split_ifs at h <;> cases h <;> rfl

/-- What the decoder reads in a format is an instruction of that format (R98, R100). -/
theorem decode_format {e : Encoded} {i : Instr} (h : decode e = .ok i) : (encode i).format = e.format := by
  obtain ⟨f, code, extra, chunk⟩ := e
  cases f with
  | cmd => exact decodeCmd_format h
  | blockHdr => exact decodeHdr_format h
  | litlenSym => exact decodeLitLen_format (sym := code) (extra := extra) h
  | distSym => exact decodeDist_format h
  | clSym => exact decodeCl_format h

theorem exists_ok_ite {c : Prop} [Decidable c] {i : Instr} {e : Except Reject Instr} (h : ¬ c → ∃ j, e = .ok j) :
    ∃ j, (if c then .ok i else e) = .ok j := by
  by_cases hc : c
  · exact ⟨i, if_pos hc⟩
  · rw [if_neg hc]; exact h hc

/-- Every byte written to `CMD` is a command (R81). -/
theorem decodeCmd_ok {code : Nat} (h : code < 2 ^ 8) (chunk : List Byte) : ∃ i, decodeCmd code chunk = .ok i := by
  unfold decodeCmd
  iterate 12 refine exists_ok_ite fun _ => ?_
  exact ⟨_, if_pos (by omega)⟩

theorem decodeHdr_ok {code : Nat} (h : code < 8) : ∃ i, decodeHdr code = .ok i := by
  unfold decodeHdr
  split_ifs
  iterate 4 exact ⟨_, rfl⟩
  omega

theorem decodeLitLen_ok {sym extra : Nat} (hs : sym < 288) (hx : extra < 2 ^ extraWidth .litlenSym sym) :
    ∃ i, decodeLitLen sym extra = .ok i := by
  unfold decodeLitLen
  by_cases hlen : 257 ≤ sym ∧ sym ≤ 285
  · have hx' : extra < 2 ^ lenExtra.getD (sym - 257) 0 := by rwa [extraWidth, if_pos hlen.1] at hx
    have hlt : sym - 257 < lenRows.length := by rw [show lenRows.length = 29 from rfl]; omega
    iterate 7 rw [if_neg (by omega)]
    rw [List.getElem?_eq_getElem hlt]
    exact ⟨_, if_pos hx'⟩
  · split_ifs
    iterate 7 exact ⟨_, rfl⟩
    all_goals omega

theorem decodeDist_ok {sym extra : Nat} (hs : sym < 32) (hx : extra < 2 ^ extraWidth .distSym sym) :
    ∃ i, decodeDist sym extra = .ok i := by
  have hx' : extra < 2 ^ distExtra.getD sym 0 := hx
  unfold decodeDist
  by_cases h30 : sym = 30 ∨ sym = 31
  · exact ⟨_, if_pos h30⟩
  · have hlt : sym < distRows.length := by rw [show distRows.length = 30 from rfl]; omega
    rw [if_neg h30, List.getElem?_eq_getElem hlt]
    exact ⟨_, if_pos hx'⟩

theorem decodeCl_ok {sym extra : Nat} (hs : sym < 19) (hx : extra < 2 ^ extraWidth .clSym sym) :
    ∃ i, decodeCl sym extra = .ok i := by
  have hx' : extra < 2 ^ clExtra sym := hx
  unfold decodeCl
  by_cases h15 : sym ≤ 15
  · exact ⟨_, if_pos h15⟩
  · rw [if_neg h15, if_pos (by omega), if_pos hx']
    split_ifs <;> exact ⟨_, rfl⟩

/-- Every code of a stream format decodes when its extra field fits (R100). -/
theorem decode_ok_of_lt {f : Format} {y x : Nat} (hy : y < streamCodes f) (hx : x < 2 ^ extraWidth f y) :
    ∃ i, decode ⟨f, y, x, []⟩ = .ok i := by
  cases f with
  | cmd => exact absurd hy (Nat.not_lt_zero y)
  | blockHdr => exact decodeHdr_ok hy
  | litlenSym => exact decodeLitLen_ok (sym := y) (extra := x) hy hx
  | distSym => exact decodeDist_ok hy hx
  | clSym => exact decodeCl_ok hy hx

theorem extraAsked_le (f : Format) (y : Nat) (s : State) : extraAsked f y s ≤ extraWidth f y := by
  unfold extraAsked
  split <;> omega

/-- A table that holds only symbols of the alphabet never gives a symbol without a row (R100). -/
theorem fetchSymbol_ne_noSuchSymbol {f : Format} {T : DecodeTable} (hT : ∀ y ∈ T.sorted, y < streamCodes f)
    (s : State) (y : Nat) : fetchSymbol f T s ≠ .noSuchSymbol y := by
  intro h
  unfold fetchSymbol at h
  split at h
  · cases h
  · cases h
  · next z n hz =>
    split at h
    · cases h
    · next x hx =>
      have hlt : x < 2 ^ extraWidth f z :=
        lt_of_lt_of_le (peekBits_lt hx) (Nat.pow_le_pow_right (by decide) (extraAsked_le f z s))
      obtain ⟨i, hi⟩ := decode_ok_of_lt (hT z (decodeSym_sym hz).1) hlt
      rw [hi] at h
      cases h

theorem fetchHeader_ne_noSuchSymbol (s : State) (y : Nat) : fetchHeader s ≠ .noSuchSymbol y := by
  intro h
  unfold fetchHeader at h
  split at h
  · cases h
  · next v hv =>
    obtain ⟨i, hi⟩ := decode_ok_of_lt (f := .blockHdr) (x := 0) (peekBits_lt hv) (Nat.two_pow_pos _)
    rw [hi] at h
    cases h

/-- With tables of their alphabets, every fetch gives an element, holds, or meets an unassigned code. -/
theorem fetchElement_ne_noSuchSymbol {s : State} (h : s.TablesInv) (y : Nat) :
    fetchElement s ≠ some (.noSuchSymbol y) := by
  obtain ⟨hclt, hlt, hdt⟩ := h
  unfold fetchElement
  split
  · simpa using fetchHeader_ne_noSuchSymbol s y
  · simpa using fetchSymbol_ne_noSuchSymbol (f := .clSym) hclt s y
  · split
    · simpa using fetchSymbol_ne_noSuchSymbol (f := .litlenSym) hlt s y
    · simpa using fetchSymbol_ne_noSuchSymbol (f := .distSym) hdt s y
  all_goals simp

/-- A fetched element is no command, and a distance symbol only where a length waits for it (R98, R258). -/
theorem fetchElement_format {s t : State} {i : Instr} (h : fetchElement s = some (.element i t)) :
    (encode i).format ≠ .cmd ∧ ((encode i).format = .distSym → s.pendLen ≠ none) := by
  unfold fetchElement at h
  split at h
  · obtain ⟨_, -, hd, -⟩ := fetchHeader_element (Option.some.inj h)
    simp [decode_format hd]
  · obtain ⟨_, _, _, -, -, hd, -⟩ := fetchSymbol_element (Option.some.inj h)
    simp [decode_format hd]
  · split at h
    · obtain ⟨_, _, _, -, -, hd, -⟩ := fetchSymbol_element (Option.some.inj h)
      simp [decode_format hd]
    · next hp =>
      obtain ⟨_, _, _, -, -, hd, -⟩ := fetchSymbol_element (Option.some.inj h)
      simp [decode_format hd, hp]
  all_goals cases h

/-- The loop of FEED and the step with no access waiting make the same transitions. -/
theorem decoderStep_execElement (s : State) : decoderStep execElement s = decoderStep exec s := by
  unfold decoderStep
  cases hf : fetchElement s with
  | none => rfl
  | some f =>
    cases f with
    | element i t => simp only [runFetch, execElement_eq_exec (fetchElement_format hf).1]
    | hold => rfl
    | unassigned => rfl
    | noSuchSymbol y => rfl

/-! ## The moves of the decoder -/

/-- The state after a byte of a stored block (R234), before the test whether it was the last one. -/
def storedByteTaken (b : Byte) (s : State) : State :=
  { windowAppend b (commit s) with rem := s.rem - 1 }

/-- What one transition of the decoder makes of a state whose cursor stands behind the bits it read (R230), with the
tests that lead there. -/
inductive DecoderMove (s : State) : State → Prop where
  /-- The transition faults (R325). -/
  | fault (c : Cause) : DecoderMove s (raise c s)
  /-- A stored or dynamic header (R231). -/
  | header (final : Bool) (next : DState) (hnext : next = .storedLen ∨ next = .dynHdr) :
      DecoderMove s (enterBlock final next s)
  /-- A fixed header (R261). -/
  | fixedHeader (final : Bool) : DecoderMove s { enterBlock final .sym s with lt := fixedLT, dt := fixedDT }
  /-- The length of an empty stored block (R233). -/
  | storedEmpty : DecoderMove s (endOfBlock { commit s with rem := 0 })
  /-- The length of a stored block with bytes (R233). -/
  | storedLength (len : Nat) (hpos : 0 < len) (hlt : len < 2 ^ 16) (hcap : overLimit len s = false) :
      DecoderMove s { commit s with rem := .ofNat 16 len, dstate := .storedCopy }
  /-- A byte of a stored block that has more (R234). -/
  | storedByte (b : Byte) (hd : s.dstate = .storedCopy) (hmore : s.rem - 1 ≠ 0) : DecoderMove s (storedByteTaken b s)
  /-- The last byte of a stored block (R234). -/
  | storedLast (b : Byte) (hd : s.dstate = .storedCopy) (hlast : s.rem - 1 = 0) :
      DecoderMove s (endOfBlock (storedByteTaken b s))
  /-- The counts of a dynamic header (R240). -/
  | counts (nlen ndist ncode : Nat) (hl : 257 ≤ nlen ∧ nlen ≤ nLitLen) (hd : 1 ≤ ndist ∧ ndist ≤ nDist)
      (hc : 4 ≤ ncode ∧ ncode ≤ nCl) :
      DecoderMove s { commit s with
        nlen := .ofNat 9 nlen, ndist := .ofNat 6 ndist, ncode := .ofNat 5 ncode
        cll := Vector.replicate 19 0, idx := 0, dstate := .dynCl }
  /-- A length of the code-length code with more to come (R242). -/
  | codeLength (cll : Vector (BitVec 3) 19) (hd : s.dstate = .dynCl) (hmore : s.idx + 1 ≠ s.ncode) :
      DecoderMove s { commit s with cll := cll, idx := s.idx + 1 }
  /-- The last length of the code-length code (R244). -/
  | codeLengthTable (cll : Vector (BitVec 3) 19) (T : DecodeTable) (hd : s.dstate = .dynCl)
      (hT : buildDecodeTable (cll.toList.map BitVec.toNat) = some T) :
      DecoderMove s { commit s with cll := cll, idx := s.idx + 1, clt := T, lens := [], dstate := .dynLens }
  /-- Code lengths with more to come (R246). -/
  | lengths (v : BitVec 4) (n : Nat) (hmore : s.nl + n < s.nlen.toNat + s.ndist.toNat) :
      DecoderMove s { commit s with lens := s.lens ++ List.replicate n v }
  /-- The last code lengths of a header (R250, R252). -/
  | headerDone (lens : List (BitVec 4)) (lt dt : DecodeTable)
      (hlt : buildDecodeTable (headerLitLens s.nlen.toNat lens) = some lt)
      (hdt : buildDecodeTable (headerDistLens s.nlen.toNat s.ndist.toNat lens) = some dt) :
      DecoderMove s { commit s with lens := lens, lt := lt, dt := dt, dstate := .sym }
  /-- A literal (R255). -/
  | literal (b : Byte) (hcap : overLimit 1 s = false) : DecoderMove s (windowAppend b (commit s))
  /-- The length half of a match (R258). -/
  | matchLength (k : Nat) (x : BitVec 5) : DecoderMove s (matchLengthHalf k x s)
  /-- The distance half of a match (R258). -/
  | matchCopy (length distance : Nat) (hlen : s.pendLen = some length) (hhave : distance ≤ s.whave)
      (hcap : overLimit length s = false) : DecoderMove s (windowCopy distance length (commit s))
  /-- End of block (R259). -/
  | endBlock : DecoderMove s (endOfBlock (commit s))

theorem literal_move (b : Byte) (s : State) : DecoderMove s (literal b s) := by
  unfold literal
  split
  · exact .fault _
  · next h => exact .literal b (by simpa using h)

theorem copyMatch_move {length : Nat} {s : State} (h : s.pendLen = some length) (distance : Nat) :
    DecoderMove s (copyMatch length distance s) := by
  unfold copyMatch
  split
  · exact .fault _
  · next hd =>
    split
    · exact .fault _
    · next hc => exact .matchCopy length distance h (by omega) (by simpa using hc)

theorem appendLengths_move (v : BitVec 4) (n : Nat) (s : State) : DecoderMove s (appendLengths v n s) := by
  unfold appendLengths finishHeader
  split
  · exact .fault _
  · next hfit =>
    dsimp only
    split
    · split
      · exact .fault _
      · split
        · next lt dt hlt hdt => exact .headerDone _ lt dt hlt hdt
        · exact .fault _
    · next hne =>
      refine .lengths v n ?_
      simp only [State.nl, List.length_append, List.length_replicate] at hne hfit ⊢
      omega

/-- The instruction ends in a move of the decoder, unless it is a distance symbol with no length before it. -/
def ElementMoves (i : Instr) (s : State) : Prop :=
  (∃ t, exec i s = .next t ∧ DecoderMove s t) ∨
    ((encode i).format = .distSym ∧ s.pendLen = none ∧ exec i s = .fault .strayDistance)

theorem ElementMoves.of_eq {i : Instr} {s t : State} (he : exec i s = .next t) (h : DecoderMove s t) :
    ElementMoves i s := .inl ⟨t, he, h⟩

/-- A row of the distance symbols is a distance half (R258). -/
theorem ElementMoves.of_distance {i : Instr} {j : Nat} {x : BitVec 13} {s : State}
    (hf : (encode i).format = .distSym) (he : exec i s = matchDistanceHalf j x s) : ElementMoves i s := by
  unfold matchDistanceHalf at he
  split at he
  · next hp => exact .inr ⟨hf, hp, he⟩
  · next length hp => exact .of_eq he (copyMatch_move hp _)

/-- What the execution of a stream element can be, row by row. -/
theorem exec_element {i : Instr} (h : (encode i).format ≠ .cmd) (s : State) : ElementMoves i s := by
  cases i with
  | reset | cinit | dinit | feed _ | flush | finish | cmdReserved00 | cmdReserved07 | cmdReserved080F _
  | cmdReserved101F _ | cmdReserved203F _ | cmdReserved407F _ | cmdReserved80FF _ => exact absurd rfl h
  | blockStored final => exact .of_eq rfl (.header final _ (.inl rfl))
  | blockFixed final => exact .of_eq rfl (.fixedHeader final)
  | blockDynamic final => exact .of_eq rfl (.header final _ (.inr rfl))
  | blockReserved _ | litlenInvalid286_287 _ | distInvalid30_31 _ => exact .of_eq rfl (.fault _)
  | lit000_127 b | lit128_143 b | lit144_159 b | lit160_191 b | lit192_255 b => exact .of_eq rfl (literal_move b s)
  | eob => exact .of_eq rfl .endBlock
  | len257 x | len258 x | len259 x | len260 x | len261 x | len262 x | len263 x | len264 x | len265 x | len266 x
  | len267 x | len268 x | len269 x | len270 x | len271 x | len272 x | len273 x | len274 x | len275 x | len276 x
  | len277 x | len278 x | len279 x | len280 x | len281 x | len282 x | len283 x | len284 x | len285 x =>
    exact .of_eq rfl (.matchLength _ x)
  | dist0 x | dist1 x | dist2 x | dist3 x | dist4 x | dist5 x | dist6 x | dist7 x | dist8 x | dist9 x | dist10 x
  | dist11 x | dist12 x | dist13 x | dist14 x | dist15 x | dist16 x | dist17 x | dist18 x | dist19 x | dist20 x
  | dist21 x | dist22 x | dist23 x | dist24 x | dist25 x | dist26 x | dist27 x | dist28 x | dist29 x =>
    exact .of_distance (x := x) rfl rfl
  | cl v => exact .of_eq rfl (appendLengths_move v 1 s)
  | rep16 x =>
    cases hv : s.lens.getLast? with
    | none => exact .of_eq (by simp only [exec, execRep16, hv]) (.fault .repeatNoPrev)
    | some v => exact .of_eq (by simp only [exec, execRep16, hv]) (appendLengths_move v (repeatOf 16 x.toNat) s)
  | repz17 x | repz18 x => exact .of_eq rfl (appendLengths_move 0 _ s)

/-- An element that answers a next state has made a move. -/
theorem exec_element_next {i : Instr} {s t : State} (h : (encode i).format ≠ .cmd) (he : exec i s = .next t) :
    DecoderMove s t := by
  rcases exec_element h s with ⟨u, hu, hm⟩ | ⟨-, -, hf⟩
  · rw [he] at hu; cases hu; exact hm
  · rw [he] at hf; cases hf

theorem storedLenStep_move {s t : State} (h : storedLenStep s = some t) : ∃ n, DecoderMove (advance n s) t := by
  unfold storedLenStep at h
  split at h
  · next len _ hlen _ =>
    split at h
    · cases h; exact ⟨0, .fault _⟩
    · split at h
      · cases h; exact ⟨0, .fault _⟩
      · next hcap =>
        dsimp only at h
        cases h
        refine ⟨alignInPad s + 32, ?_⟩
        split
        · next hz => subst hz; exact .storedEmpty
        · exact .storedLength len (by omega) (peekBits_lt hlen) (Bool.eq_false_of_not_eq_true hcap)
  · cases h

theorem storedCopyStep_move {s t : State} (hd : s.dstate = .storedCopy) (h : storedCopyStep s = some t) :
    ∃ n, DecoderMove (advance n s) t := by
  unfold storedCopyStep at h
  split at h
  · cases h
  · next v _ =>
    have hrem : (windowAppend (.ofNat 8 v) (commit (advance 8 s))).rem = (advance 8 s).rem := by simp
    dsimp only at h
    rw [hrem] at h
    cases h
    refine ⟨8, ?_⟩
    split
    · next hz => exact .storedLast _ hd hz
    · next hz => exact .storedByte _ hd hz

theorem dynHdrStep_move {s t : State} (h : dynHdrStep s = some t) : ∃ n, DecoderMove (advance n s) t := by
  unfold dynHdrStep at h
  split at h
  · cases h
  · dsimp only at h
    split at h
    · cases h; exact ⟨0, .fault _⟩
    · next v _ hok =>
      cases h
      have hl : nLitLen = 286 := rfl
      have hd : nDist = 30 := rfl
      have hc : nCl = 19 := rfl
      exact ⟨14, .counts _ _ _ (by omega) (by omega) (by omega)⟩

theorem dynClStep_move {s t : State} (hd : s.dstate = .dynCl) (h : dynClStep s = some t) :
    ∃ n, DecoderMove (advance n s) t := by
  unfold dynClStep at h
  split at h
  · cases h
  · dsimp only at h
    split at h
    · split at h
      · cases h; exact ⟨0, .fault _⟩
      · next T hT => cases h; exact ⟨3, .codeLengthTable _ T hd hT⟩
    · next hmore => cases h; exact ⟨3, .codeLength _ hd hmore⟩

theorem plainStep_move {s t : State} (h : plainStep s = some t) : ∃ n, DecoderMove (advance n s) t := by
  unfold plainStep at h
  split at h
  · exact storedLenStep_move h
  · next hd => exact storedCopyStep_move hd h
  · exact dynHdrStep_move h
  · next hd => exact dynClStep_move hd h
  all_goals cases h

/-- Every transition of the decoder reads some bits and makes one move (R230). -/
theorem decoderStep_move {s t : State} (h : decoderStep exec s = some (.next t)) :
    ∃ n, DecoderMove (advance n s) t := by
  rcases decoderStep_cases h with ⟨i, u, hf, he, -⟩ | ⟨-, rfl⟩ | ⟨-, hp⟩
  · obtain ⟨n, rfl⟩ := fetchElement_element hf
    exact ⟨n, exec_element_next (fetchElement_format hf).1 he⟩
  · exact ⟨0, .fault _⟩
  · exact plainStep_move hp

/-- With tables of their alphabets a transition of the decoder never stops (R100, R258). -/
theorem decoderStep_completes {s : State} {o : Host.Outcome State Fault Refusal} (hT : s.TablesInv)
    (h : decoderStep exec s = some o) : ∃ t, o = .next t := by
  unfold decoderStep at h
  cases hf : fetchElement s with
  | none =>
    rw [hf] at h
    obtain ⟨t, -, rfl⟩ := Option.map_eq_some_iff.mp h
    exact ⟨t, rfl⟩
  | some f =>
    rw [hf] at h
    cases f with
    | element i u =>
      obtain ⟨hcmd, hdist⟩ := fetchElement_format hf
      obtain ⟨n, rfl⟩ := fetchElement_element hf
      rcases exec_element hcmd (advance n s) with ⟨t, ht, -⟩ | ⟨hd, hp, -⟩
      · simp only [runFetch, ht, Option.bind_some, wholeElement] at h
        split at h
        · cases h
        · cases h; exact ⟨t, rfl⟩
      · exact absurd hp (hdist hd)
    | hold => simp [runFetch] at h
    | unassigned =>
      simp only [runFetch, Option.bind_some, wholeElement] at h
      split at h
      · cases h
      · cases h; exact ⟨_, rfl⟩
    | noSuchSymbol y => exact absurd hf (fetchElement_ne_noSuchSymbol hT y)

/-! ## The decoder loop -/

/-- Induction over `Decode()` (R230): what every transition and the end of a held step keep holds at its end, and `Q`
of its outcome. -/
theorem decodeLoop_induction {P : State → Prop} {Q : Host.Outcome State Fault Refusal → Prop}
    (stop : ∀ s, P s → Q (.next s)) (hold : ∀ s, P s → P (rollback s))
    (move : ∀ s o, P s → decoding s = true → decoderStep exec s = some o → Q o ∧ ∀ t, o = .next t → P t)
    (fuel : Nat) {s : State} (h : P s) : Q (decodeLoop fuel s) := by
  induction fuel generalizing s with
  | zero => exact stop s h
  | succ n ih =>
    unfold decodeLoop
    split
    · next hdec =>
      rw [decoderStep_execElement]
      cases ho : decoderStep exec s with
      | none => exact stop _ (hold s h)
      | some o =>
        obtain ⟨hQ, hP⟩ := move s o h hdec ho
        cases o with
        | next t => exact ih (hP t rfl)
        | fault r => exact hQ
        | refused r => exact hQ
    · exact stop s h

end Sys2Proof.Machine

/-! PROOFS. Induction over everything the machine does: a predicate that the few primitive operations keep is kept by
every command, every transition of the decoder and every step (spec 00_scope R10, 47_commands R290). -/

namespace Sys2Proof.Machine

/-! ## Frames of the primitive operations -/

/-- Only the registers that steer the two sides may differ: the input side, the lookahead, the decoder's registers and
tables, `STATUS` and the fault record. -/
abbrev ControlFrame (s t : State) : Prop :=
  t = { s with
    inq := t.inq, bitposIn := t.bitposIn, cursor := t.cursor, pendLen := t.pendLen, dstate := t.dstate
    bfinal := t.bfinal, rem := t.rem, nlen := t.nlen, ndist := t.ndist, ncode := t.ncode, idx := t.idx
    cll := t.cll, lens := t.lens, clt := t.clt, lt := t.lt, dt := t.dt, la := t.la, effort := t.effort
    totalIn := t.totalIn, phase := t.phase, trail := t.trail, pending := t.pending, err := t.err
    errPos := t.errPos }

/-- Only the token buffer of R29 and the lookahead may differ. -/
abbrev BufferFrame (s t : State) : Prop :=
  t = { s with
    la := t.la, tok := t.tok, blkBytes := t.blkBytes, estate := t.estate, finalSent := t.finalSent }

/-- Only what the host reaches without a command may differ: its accesses, the bytes it has not taken, the word it was
handed, and the configuration registers (R30, R68). -/
abbrev HostFrame (s t : State) : Prop :=
  t = { s with
    hostq := t.hostq, out := t.out, rdata := t.rdata, level := t.level, outLimit := t.outLimit
    verify := t.verify, ckExpect := t.ckExpect }

/-! ## Accepting a token -/

/-- Accepting a token short of the test whether it closes the block (R158). -/
def takeToken (s : State) : State :=
  consumeToken (tokenSpan (nextToken s))
    (insertRange s.wtotal (tokenSpan (nextToken s)) { s with tok := s.tok ++ [nextToken s] })

theorem acceptToken_eq (s : State) :
    acceptToken s =
      if wsize s.params - maxMatch < (takeToken s).blkBytes then emitBlock false (takeToken s) else takeToken s := rfl

theorem takeToken_compressFrame (s : State) : CompressFrame s (takeToken s) := by
  have hinsert := insertRange_frame s.wtotal (tokenSpan (nextToken s)) { s with tok := s.tok ++ [nextToken s] }
  have hframe :
      CompressFrame s (insertRange s.wtotal (tokenSpan (nextToken s)) { s with tok := s.tok ++ [nextToken s] }) := by
    simp only [CompressFrame]
    rw [hinsert]
  exact hframe.trans (consumeToken_compressFrame _ _)

/-- `EmitBlock` in terms of the operations it is made of (R202). -/
theorem emitBlock_eq (final : Bool) (s : State) :
    ∃ bits, emitBlock final s =
      closeBlock { putBitList bits { s with estate := .emitting } with finalSent := s.finalSent || final } :=
  ⟨_, rfl⟩

/-- The tokeniser keeps what accepting a token keeps, in an open compress stream (R160). -/
theorem tokenise_induction {P : State → Prop}
    (accept : ∀ s, s.mode = .compress → 0 < s.la.length → P s → P (acceptToken s))
    (finishing : Bool) {s : State} (hm : s.mode = .compress) (h : P s) : P (tokenise finishing s) := by
  unfold tokenise
  generalize s.la.length = fuel
  induction fuel generalizing s with
  | zero => exact h
  | succ n ih =>
    unfold tokeniseLoop
    split
    · exact h
    · next hs =>
      have hmode : (acceptToken s).mode = s.mode := by rw [acceptToken_compressFrame s]
      exact ih (hmode.trans hm) (accept s hm (by omega) h)

theorem tokenise_mode (finishing : Bool) (s : State) : (tokenise finishing s).mode = s.mode := by
  rw [tokenise_compressFrame finishing s]

/-! ## Predicates kept by the operations -/

/-- The operations that commands and decoder transitions are made of keep `P`: the encoder's are whole tokens and
whole blocks, since what R201 says of the token buffer holds only between them. -/
structure KeptByOps (P : State → Prop) : Prop where
  control : ∀ {s t}, P s → ControlFrame s t → P t
  append : ∀ {s} b, P s → P (windowAppend b s)
  put : ∀ {s} bits, s.mode = .compress → P s → P (putBitList bits s)
  accept : ∀ {s}, s.mode = .compress → 0 < s.la.length → P s → P (acceptToken s)
  emit : ∀ {s} final, s.mode = .compress → P s → P (emitBlock final s)
  opened : ∀ {s} m, P s → P (openStream m s)

/-- The smaller operations that accepting a token and emitting a block are made of keep `P`. -/
structure KeptByParts (P : State → Prop) : Prop where
  control : ∀ {s t}, P s → ControlFrame s t → P t
  append : ∀ {s} b, P s → P (windowAppend b s)
  put : ∀ {s} bits, s.mode = .compress → P s → P (putBitList bits s)
  buffer : ∀ {s t}, P s → BufferFrame s t → P t
  insert : ∀ {s} p, P s → P (insertPos p s)
  opened : ∀ {s} m, P s → P (openStream m s)

section
variable {P : State → Prop}

theorem KeptByParts.insertRange (K : KeptByParts P) (p n : Nat) {s : State} (h : P s) : P (insertRange p n s) := by
  induction n generalizing p s with
  | zero => exact h
  | succ n ih =>
    unfold Machine.insertRange
    split
    · exact ih _ (K.insert p h)
    · exact ih _ h

theorem KeptByParts.windowAppendAll (K : KeptByParts P) (bs : List Byte) {s : State} (h : P s) :
    P (windowAppendAll bs s) := by
  induction bs generalizing s with
  | nil => exact h
  | cons b bs ih => exact ih (K.append b h)

theorem KeptByParts.takeToken (K : KeptByParts P) {s : State} (h : P s) : P (takeToken s) :=
  K.buffer (K.windowAppendAll _ (K.insertRange _ _ (K.buffer h rfl))) rfl

theorem KeptByParts.emitBlock (K : KeptByParts P) (final : Bool) {s : State} (hm : s.mode = .compress) (h : P s) :
    P (emitBlock final s) := by
  obtain ⟨bits, heq⟩ := emitBlock_eq final s
  rw [heq]
  exact K.buffer (K.put bits (s := { s with estate := .emitting }) hm (K.buffer h rfl)) rfl

theorem KeptByParts.acceptToken (K : KeptByParts P) {s : State} (hm : s.mode = .compress) (h : P s) :
    P (acceptToken s) := by
  have hmode : (Machine.takeToken s).mode = s.mode := by rw [takeToken_compressFrame s]
  rw [acceptToken_eq]
  split
  · exact K.emitBlock false (hmode.trans hm) (K.takeToken h)
  · exact K.takeToken h

theorem KeptByParts.keptByOps (K : KeptByParts P) : KeptByOps P where
  control := K.control
  append := K.append
  put := K.put
  accept hm _ h := K.acceptToken hm h
  emit final hm h := K.emitBlock final hm h
  opened := K.opened

/-! ## Decoder -/

theorem KeptByOps.windowCopy (K : KeptByOps P) (distance length : Nat) {s : State} (h : P s) :
    P (windowCopy distance length s) := by
  induction length generalizing s with
  | zero => exact h
  | succ n ih => exact ih (K.append _ h)

theorem KeptByOps.storedByteTaken (K : KeptByOps P) (b : Byte) {s : State} (h : P s) : P (storedByteTaken b s) :=
  K.control (K.append b (K.control h rfl)) rfl

theorem KeptByOps.move (K : KeptByOps P) {s t : State} (hm : DecoderMove s t) (h : P s) : P t := by
  cases hm with
  | fault | header | fixedHeader | storedEmpty | storedLength | counts | codeLength | codeLengthTable | lengths
  | headerDone | matchLength | endBlock => exact K.control h rfl
  | storedByte b => exact K.storedByteTaken b h
  | storedLast b => exact K.control (K.storedByteTaken b h) rfl
  | literal b => exact K.append b (K.control h rfl)
  | matchCopy length distance => exact K.windowCopy distance length (K.control h rfl)

theorem KeptByOps.decoderStep (K : KeptByOps P) {s t : State} (hs : decoderStep exec s = some (.next t)) (h : P s) :
    P t := by
  obtain ⟨n, hm⟩ := decoderStep_move hs
  exact K.move hm (K.control h rfl)

/-! ## Commands -/

/-- `P` holds of the next state, if there is one. -/
def NextHas (P : State → Prop) (o : Host.Outcome State Fault Refusal) : Prop := ∀ t, o = .next t → P t

theorem nextHas_next {s : State} (h : P s) : NextHas P (.next s) := by
  intro t ht
  cases ht
  exact h

theorem KeptByOps.endCommand (K : KeptByOps P) {s : State} (h : P s) : NextHas P (.next (endCommand s)) :=
  nextHas_next (K.control h rfl)

theorem KeptByOps.withPhase (K : KeptByOps P) (phase : Phase) {s : State} (h : P s) : P { s with phase := phase } :=
  K.control h rfl

theorem KeptByOps.raised (K : KeptByOps P) (c : Cause) {s : State} (h : P s) : P (raise c s) := K.control h rfl

theorem KeptByOps.decodeStream (K : KeptByOps P) {s : State} (h : P s) : NextHas P (decodeStream s) :=
  decodeLoop_induction (P := P) (Q := NextHas P) (fun _ => nextHas_next) (fun _ hs => K.control hs rfl)
    (fun _ o hs _ ho =>
      have hnext : NextHas P o := fun _ ht => K.decoderStep (ht ▸ ho) hs
      ⟨hnext, hnext⟩) _ h

theorem KeptByOps.badCommand (K : KeptByOps P) (c : Cause) {s : State} (h : P s) : NextHas P (.next (badCommand c s)) :=
  K.endCommand (K.raised c h)

theorem KeptByOps.cinit (K : KeptByOps P) {s : State} (h : P s) : NextHas P (execCinit s) := by
  refine K.endCommand ?_
  split
  · exact K.raised _ (K.opened .compress h)
  · exact K.control (K.opened .compress h) rfl

theorem KeptByOps.feed (K : KeptByOps P) (chunk : List Byte) {s : State} (h : P s) : NextHas P (execFeed chunk s) := by
  unfold execFeed
  split
  · exact K.badCommand _ h
  · split
    · exact K.badCommand _ h
    · next hm =>
      have hfed : P { s with la := s.la ++ chunk, totalIn := s.totalIn + chunk.length } := K.control h rfl
      exact K.endCommand (tokenise_induction (fun _ => K.accept) false hm hfed)
    · unfold feedDecompress
      split
      · next t ht =>
        have hP : P t := K.decodeStream (s := acceptInput chunk s) (K.control h rfl) t ht
        refine K.endCommand ?_
        unfold settleDecode
        split
        · exact K.control hP rfl
        · exact hP
      all_goals exact fun _ ht => nomatch ht
  · exact K.endCommand (K.control h rfl)
  · exact K.badCommand _ h
  · exact nextHas_next h

theorem KeptByOps.syncMarker (K : KeptByOps P) {s : State} (hm : s.mode = .compress) (h : P s) : P (syncMarker s) :=
  K.put _ hm (K.put _ hm (K.put _ hm (K.put _ hm (K.put _ hm h))))

theorem KeptByOps.flushCompress (K : KeptByOps P) {s : State} (hm : s.mode = .compress) (h : P s) :
    P (flushCompress s) := by
  have hmode : (tokenise true s).mode = .compress := (tokenise_mode true s).trans hm
  have htok : P (tokenise true s) := tokenise_induction (fun _ => K.accept) true hm h
  unfold Machine.flushCompress
  dsimp only
  split
  · exact K.syncMarker hmode (K.emit false hmode htok)
  · exact K.syncMarker hmode htok

theorem KeptByOps.flush (K : KeptByOps P) {s : State} (h : P s) : NextHas P (execFlush s) := by
  unfold execFlush
  split
  · exact K.badCommand _ h
  · split
    · exact K.badCommand _ h
    · next hm => exact K.endCommand (K.flushCompress hm h)
    · exact K.endCommand h
  · exact K.endCommand h
  · exact K.badCommand _ h
  · exact nextHas_next h

theorem KeptByOps.finishCompress (K : KeptByOps P) {s : State} (hm : s.mode = .compress) (h : P s) :
    P (finishCompress s) := by
  have hmode : (tokenise true s).mode = .compress := (tokenise_mode true s).trans hm
  have hemitted : P (emitBlock true (tokenise true s)) :=
    K.emit true hmode (tokenise_induction (fun _ => K.accept) true hm h)
  have haligned : P (alignOut (emitBlock true (tokenise true s))) := K.put _ hmode hemitted
  exact K.withPhase .finished haligned

theorem KeptByOps.finish (K : KeptByOps P) {s : State} (h : P s) : NextHas P (execFinish s) := by
  unfold execFinish
  split
  · exact K.badCommand _ h
  · split
    · exact K.badCommand _ h
    · next hm => exact K.endCommand (K.finishCompress hm h)
    · exact K.endCommand (K.raised _ h)
  · refine K.endCommand ?_
    unfold finishDone
    split
    · exact K.raised _ h
    · exact K.withPhase _ h
  · exact K.badCommand _ h
  · exact nextHas_next h

theorem KeptByOps.reserved (K : KeptByOps P) {s : State} (h : P s) : NextHas P (.next (reservedCommand s)) := by
  unfold reservedCommand
  split
  · exact nextHas_next h
  · exact K.badCommand _ h

/-- Every instruction but RESET keeps what the operations keep. -/
theorem KeptByOps.exec (K : KeptByOps P) {i : Instr} (hi : i ≠ .reset) {s : State} (h : P s) :
    NextHas P (exec i s) := by
  by_cases hcmd : (encode i).format = .cmd
  · cases i with
    | reset => exact absurd rfl hi
    | cinit => exact K.cinit h
    | dinit => exact K.endCommand (K.opened .decompress h)
    | feed chunk => exact K.feed chunk h
    | flush => exact K.flush h
    | finish => exact K.finish h
    | cmdReserved00 | cmdReserved07 | cmdReserved080F _ | cmdReserved101F _ | cmdReserved203F _
    | cmdReserved407F _ | cmdReserved80FF _ => exact K.reserved h
    | _ => exact nomatch hcmd
  · exact fun t ht => K.move (exec_element_next hcmd ht) h

end

/-! ## Steps -/

/-- What a host access can do: start a command, change only what the host reaches, or reset the block (R68, R303,
R350). -/
theorem accessEffect_cases (a : HostAccess) (s : State) :
    (∃ i, accessEffect a s = .command i ∧ (encode i).format = .cmd) ∨
      (∃ t, accessEffect a s = .done t ∧ HostFrame s t) ∨
      accessEffect a s = .done (resetState s) := by
  cases a with
  | write reg v chunk =>
    by_cases h0 : reg = 0
    · left
      obtain ⟨i, hi⟩ := decodeCmd_ok (Nat.mod_lt v.toNat (by decide : 0 < 2 ^ 8)) chunk
      exact ⟨i, by simp only [accessEffect, if_pos h0, fetchCommand, decode, hi], decodeCmd_format hi⟩
    · right; left
      refine ⟨writeReg reg v s, by simp only [accessEffect, if_neg h0], ?_⟩
      unfold writeReg
      split <;> rfl
  | read reg => exact .inr (.inl ⟨_, rfl, rfl⟩)
  | take =>
    refine .inr (.inl ⟨_, rfl, ?_⟩)
    unfold takeByte
    split <;> rfl
  | hardReset => exact .inr (.inr rfl)

/-- An invariant of the operations that the host's accesses and a reset keep is kept by every step. -/
theorem KeptByOps.step {P : State → Prop} (K : KeptByOps P) (host : ∀ {s t}, P s → HostFrame s t → P t)
    (reset : ∀ {s}, P s → P (resetState s)) {s t : State} (hs : step s = .next t) (h : P s) : P t := by
  unfold Machine.step at hs
  split at hs
  · next a rest _ =>
    have hrest : P { s with hostq := rest } := host h rfl
    unfold accessStep at hs
    rcases accessEffect_cases a { s with hostq := rest } with ⟨i, hi, -⟩ | ⟨u, hu, hframe⟩ | hr
    · rw [hi] at hs
      by_cases hreset : i = .reset
      · subst hreset
        cases hs
        exact K.control (reset hrest) rfl
      · exact K.exec hreset hrest t hs
    · rw [hu] at hs
      cases hs
      exact host hrest hframe
    · rw [hr] at hs
      cases hs
      exact reset hrest
  · unfold streamStep at hs
    split at hs
    · cases ho : Machine.decoderStep Machine.exec s with
      | none => rw [ho] at hs; cases hs; exact K.control h rfl
      | some o => rw [ho] at hs; exact K.decoderStep (ho.trans (congrArg some hs)) h
    · cases hs; exact h

end Sys2Proof.Machine

/-! PROOFS. The window and the checksum (spec 10_state R27, R32, 20_memory R62, R63). -/

namespace Sys2Proof.Machine

/-- The memories are canonical, the window registers true and the sums in range (R27, R32, R62, R63). -/
def State.WindowSafe (s : State) : Prop := s.MemWF ∧ s.WindowInv ∧ s.ChecksumInv

theorem windowAppend_windowInv {s : State} (b : Byte) (h : s.WindowInv) : (windowAppend b s).WindowInv := by
  obtain ⟨hpos, hhave⟩ := h
  simp only [State.WindowInv, windowAppend_wpos, windowAppend_whave, windowAppend_wtotal, windowAppend_params]
  refine ⟨?_, by omega⟩
  rw [hpos, Nat.mod_add_mod]

/-- A sum reduced modulo 65521 keeps its value in a register of 16 bits (R280). -/
theorem toNat_sum_lt (n : Nat) : (BitVec.ofNat 16 (n % adlerBase)).toNat < adlerBase := by
  have hmod : n % adlerBase < adlerBase := Nat.mod_lt n (by decide)
  have hbase : adlerBase = 65521 := rfl
  rw [BitVec.toNat_ofNat, Nat.mod_eq_of_lt (by omega)]
  exact hmod

theorem windowAppend_checksumInv (b : Byte) (s : State) : (windowAppend b s).ChecksumInv := by
  simp only [State.ChecksumInv, windowAppend_s1, windowAppend_s2]
  exact ⟨toNat_sum_lt _, toNat_sum_lt _⟩

/-- An empty window is a true one. -/
theorem resetState_windowSafe (s : State) : (resetState s).WindowSafe := by
  refine ⟨reset_memWF, ⟨(Nat.zero_mod _).symm, (Nat.zero_min _).symm⟩, ?_⟩
  show State.reset.ChecksumInv
  decide

theorem windowSafe_keptByParts : KeptByParts State.WindowSafe where
  control h hf := by rw [hf]; exact h
  append b h := ⟨windowAppend_memWF b h.1, windowAppend_windowInv b h.2.1, windowAppend_checksumInv b _⟩
  put _ _ h := h
  buffer h hf := by rw [hf]; exact h
  insert p h := ⟨insertPos_memWF p h.1, h.2⟩
  opened _ _ := resetState_windowSafe _

/-- Settles O52: every operation keeps the three invariants, a window append by its own arithmetic. -/
theorem stepKeepsWindowAndChecksum : Obligations.StepKeepsWindowAndChecksum := by
  intro s t hmem hwin hsum hs
  exact windowSafe_keptByParts.keptByOps.step (fun h hf => by rw [hf]; exact h) (fun _ => resetState_windowSafe _) hs
    ⟨hmem, hwin, hsum⟩

end Sys2Proof.Machine

/-! PROOFS. The output registers, the output counter, the token buffer and the chains (spec 10_state R23, R28, R34,
44_block_encoder R201). -/

namespace Sys2Proof.Machine

/-! ## The output side -/

/-- The output registers and the output counter are true (R23, R34). -/
def State.OutputSafe (s : State) : Prop := s.SinkInv ∧ s.CountInv

/-- Setting bit `n` of an accumulator below `2 ^ n` leaves it below `2 ^ (n + 1)`. -/
theorem setBit_lt (acc : BitVec 8) (n : Nat) (bit : Bool) (h : acc.toNat < 2 ^ n) :
    ((acc &&& ~~~(1#8 <<< n)) ||| (BitVec.ofBool bit).setWidth 8 <<< n).toNat < 2 ^ (n + 1) := by
  have hpow : 2 ^ n ≤ 2 ^ (n + 1) := Nat.pow_le_pow_right (by decide) (Nat.le_succ n)
  rw [BitVec.toNat_or]
  refine Nat.or_lt_two_pow ?_ ?_
  · rw [BitVec.toNat_and]
    exact lt_of_le_of_lt Nat.and_le_left (lt_of_lt_of_le h hpow)
  · have hbit : ((BitVec.ofBool bit).setWidth 8).toNat ≤ 1 := by cases bit <;> decide
    rw [BitVec.toNat_shiftLeft, Nat.shiftLeft_eq]
    refine lt_of_le_of_lt (Nat.mod_le _ _) ?_
    calc ((BitVec.ofBool bit).setWidth 8).toNat * 2 ^ n ≤ 1 * 2 ^ n := Nat.mul_le_mul_right _ hbit
      _ < 2 ^ (n + 1) := by rw [Nat.pow_succ]; have := Nat.two_pow_pos n; omega

/-- The bits of the accumulator from its bit count on are 0 (R23). -/
def BitSink.Clean (k : BitSink) : Prop := k.oacc.toNat < 2 ^ k.onb.toNat

/-- How many bits the sink has taken. -/
def BitSink.taken (k : BitSink) : Nat := 8 * k.emitted.length + k.onb.toNat

/-- One bit more is in the sink, and nothing lies beyond it (R120). -/
theorem sinkBit_clean {k : BitSink} (bit : Bool) (h : k.Clean) :
    (sinkBit k bit).Clean ∧ (sinkBit k bit).taken = k.taken + 1 := by
  simp only [sinkBit]
  split
  · next h7 =>
    refine ⟨Nat.zero_lt_one, ?_⟩
    simp only [BitSink.taken, List.length_append, List.length_singleton, h7]
    rfl
  · next h7 =>
    have hlt : k.onb.toNat < 7 := by
      have hne : k.onb.toNat ≠ 7 := fun he => h7 (BitVec.eq_of_toNat_eq he)
      have := k.onb.isLt
      omega
    have hsucc : (k.onb + 1).toNat = k.onb.toNat + 1 := by
      show (k.onb.toNat + 1) % 2 ^ 3 = k.onb.toNat + 1
      omega
    simp only [BitSink.Clean, BitSink.taken, hsucc]
    exact ⟨setBit_lt _ _ _ h, rfl⟩

theorem sinkBit_foldl_clean (bits : List Bool) {k : BitSink} (h : k.Clean) :
    (bits.foldl sinkBit k).Clean ∧ (bits.foldl sinkBit k).taken = k.taken + bits.length := by
  induction bits generalizing k with
  | nil => exact ⟨h, rfl⟩
  | cons b bs ih =>
    obtain ⟨hclean, htaken⟩ := sinkBit_clean b h
    obtain ⟨hclean', htaken'⟩ := ih hclean
    refine ⟨hclean', ?_⟩
    rw [List.foldl_cons, htaken', htaken, List.length_cons]
    omega

theorem putBitList_outputSafe (bits : List Bool) {s : State} (hm : s.mode = .compress) (h : s.OutputSafe) :
    (putBitList bits s).OutputSafe := by
  obtain ⟨⟨hpos, hacc⟩, -, hcount⟩ := h
  have hcount := hcount hm
  obtain ⟨hclean, htaken⟩ := sinkBit_foldl_clean bits (k := ⟨s.oacc, s.onb, []⟩) hacc
  have hlt := (bits.foldl sinkBit ⟨s.oacc, s.onb, []⟩).onb.isLt
  simp only [BitSink.taken, List.length_nil] at htaken
  refine ⟨⟨?_, hclean⟩, fun hd => ?_, fun _ => ?_⟩
  · simp only [putBitList_bitposOut, putBitList_onb]
    omega
  · rw [putBitList_mode, hm] at hd
    cases hd
  · simp only [putBitList_bitposOut, putBitList_totalOut]
    omega

theorem windowAppend_outputSafe (b : Byte) {s : State} (h : s.OutputSafe) : (windowAppend b s).OutputSafe := by
  obtain ⟨hsink, hdec, hcomp⟩ := h
  simp only [State.OutputSafe, State.SinkInv, State.CountInv, windowAppend_bitposOut, windowAppend_onb,
    windowAppend_oacc, windowAppend_mode, windowAppend_totalOut, windowAppend_wtotal]
  refine ⟨hsink, fun hm => ?_, fun hm => ?_⟩
  · rw [if_pos hm, hdec hm]
  · rw [if_neg (by simp [hm]), hcomp hm]

theorem openStream_outputSafe (m : Mode) (s : State) : (openStream m s).OutputSafe :=
  ⟨⟨rfl, Nat.zero_lt_one⟩, fun _ => rfl, fun _ => (Nat.zero_div 8).symm⟩

theorem resetState_outputSafe (s : State) : (resetState s).OutputSafe :=
  ⟨⟨rfl, Nat.zero_lt_one⟩, fun _ => rfl, fun _ => (Nat.zero_div 8).symm⟩

theorem outputSafe_keptByParts : KeptByParts State.OutputSafe where
  control h hf := by rw [hf]; exact h
  append b h := windowAppend_outputSafe b h
  put bits hm h := putBitList_outputSafe bits hm h
  buffer h hf := by rw [hf]; exact h
  insert _ h := h
  opened m _ := openStream_outputSafe m _

/-! ## The token buffer and the chains -/

/-- The parameters are legal, the token buffer and the chains true (R5, R28, R201). -/
def State.TokensSafe (s : State) : Prop := s.params.Legal ∧ s.BlockInv ∧ s.ChainInv

theorem sparseRead_mem {α : Type} {m : List (Nat × α)} {k : Nat} {v : α} (h : sparseRead m k = some v) :
    ∃ e ∈ m, e.2 = v := by
  induction m with
  | nil => cases h
  | cons x t ih =>
    simp only [sparseRead] at h
    split at h
    · cases h; exact ⟨x, List.mem_cons_self, rfl⟩
    · obtain ⟨e, he, hv⟩ := ih h
      exact ⟨e, List.mem_cons_of_mem _ he, hv⟩

/-- The positions in `HEAD` and `PREV` are below a bound; `ChainInv` is this at the bound `WTOTAL` (R28). -/
def ChainsBelow (n : Nat) (s : State) : Prop := (∀ e ∈ s.head, e.2 < n) ∧ ∀ e ∈ s.prev, e.2 < n

theorem ChainsBelow.mono {n m : Nat} {s : State} (h : ChainsBelow n s) (hle : n ≤ m) : ChainsBelow m s :=
  ⟨fun e he => lt_of_lt_of_le (h.1 e he) hle, fun e he => lt_of_lt_of_le (h.2 e he) hle⟩

theorem ChainsBelow.headRead_lt {n k q : Nat} {s : State} (h : ChainsBelow n s) (hq : headRead s k = some q) :
    q < n := by
  obtain ⟨e, he, rfl⟩ := sparseRead_mem hq
  exact h.1 e he

theorem ChainsBelow.prevRead_lt {n k q : Nat} {s : State} (h : ChainsBelow n s) (hq : prevRead s k = some q) :
    q < n := by
  obtain ⟨e, he, rfl⟩ := sparseRead_mem hq
  exact h.2 e he

theorem insertPos_chainsBelow {n p : Nat} {s : State} (h : ChainsBelow n s) (hp : p < n) :
    ChainsBelow n (insertPos p s) := by
  refine ⟨fun e he => ?_, fun e he => ?_⟩
  · rcases sparseWrite_keys he with he | ⟨-, hv⟩
    · exact h.1 e he
    · cases hv; exact hp
  · rcases sparseWrite_keys he with he | ⟨-, hv⟩
    · exact h.2 e he
    · exact h.headRead_lt hv

theorem insertRange_chainsBelow {n p k : Nat} {s : State} (h : ChainsBelow n s) (hp : p + k ≤ n) :
    ChainsBelow n (insertRange p k s) := by
  induction k generalizing p s with
  | zero => exact h
  | succ k ih =>
    unfold insertRange
    split
    · exact ih (insertPos_chainsBelow h (by omega)) (by omega)
    · exact ih h (by omega)

/-- Every match the walk keeps has a distance within the window and before the position (R154). -/
theorem walkChain_dist {s : State} {p maxlen budget : Nat} {q : Option Nat} {best : Best} (hc : ChainsBelow p s)
    (hq : ∀ k, q = some k → k < p) (hb : 3 ≤ best.len → 1 ≤ best.dist ∧ best.dist ≤ wsize s.params)
    (hlen : 3 ≤ (walkChain s p maxlen budget q best).len) :
    1 ≤ (walkChain s p maxlen budget q best).dist ∧
      (walkChain s p maxlen budget q best).dist ≤ wsize s.params := by
  induction budget generalizing q best with
  | zero => exact hb hlen
  | succ n ih =>
    cases q with
    | none => exact hb hlen
    | some k =>
      have hk := hq k rfl
      unfold walkChain at hlen ⊢
      split at hlen
      · next hnear =>
        rw [if_pos hnear]
        refine ih (fun j hj => hc.prevRead_lt hj) ?_ hlen
        split
        · exact fun _ => ⟨by simp only; omega, hnear⟩
        · exact hb
      · next hfar =>
        rw [if_neg hfar]
        exact hb hlen

/-- The token that is accepted next is one the format can carry (R29, R154). -/
theorem nextToken_legal {s : State} (h : s.ChainInv) : tokenLegal s.params (nextToken s) = true := by
  unfold nextToken
  split
  · next m hm =>
    obtain ⟨hmin, hmax⟩ := findMatch_len hm
    have hdist : 1 ≤ m.dist ∧ m.dist ≤ wsize s.params := by
      unfold findMatch at hm
      split at hm
      · cases hm
      · dsimp only at hm
        split at hm
        · next hlen =>
          cases hm
          exact walkChain_dist h (fun k hk => ChainsBelow.headRead_lt h hk) (by simp) hlen
        · cases hm
    have hmaxMatch : m.len ≤ maxMatch := le_trans hmax (Nat.min_le_left _ _)
    simp only [tokenLegal, Bool.and_eq_true, decide_eq_true_eq]
    exact ⟨⟨⟨hmin, hmaxMatch⟩, hdist.1⟩, hdist.2⟩
  · rfl

/-- What accepting a token leaves in the registers of the token buffer and the window's count (R158). -/
theorem takeToken_fields {s : State} (h : 0 < s.la.length) :
    (takeToken s).params = s.params ∧ (takeToken s).tok = s.tok ++ [nextToken s] ∧
      (takeToken s).blkBytes = s.blkBytes + tokenSpan (nextToken s) ∧ (takeToken s).estate = s.estate ∧
      (takeToken s).wtotal = s.wtotal + tokenSpan (nextToken s) := by
  have hspan := tokenSpan_nextToken h
  have hinsert := insertRange_frame s.wtotal (tokenSpan (nextToken s)) { s with tok := s.tok ++ [nextToken s] }
  unfold takeToken
  generalize insertRange s.wtotal (tokenSpan (nextToken s)) { s with tok := s.tok ++ [nextToken s] } = u at hinsert
  have hwin := windowAppendAll_frame (u.la.take (tokenSpan (nextToken s))) u
  have htotal := windowAppendAll_wtotal (u.la.take (tokenSpan (nextToken s))) u
  have hla : u.la = s.la := by rw [hinsert]
  have hut : u.wtotal = s.wtotal := by rw [hinsert]
  simp only [consumeToken]
  refine ⟨?_, ?_, ?_, ?_, ?_⟩
  · rw [hwin, hinsert]
  · rw [hwin, hinsert]
  · rw [hinsert]
  · rw [hwin, hinsert]
  · rw [htotal, hut, hla, List.length_take, Nat.min_eq_left hspan.2.1]

theorem windowAppendAll_chainsBelow {n : Nat} (bs : List Byte) {s : State} (h : ChainsBelow n s) :
    ChainsBelow n (windowAppendAll bs s) := by
  rw [windowAppendAll_frame bs s]
  exact h

theorem takeToken_chainInv {s : State} (hla : 0 < s.la.length) (h : s.ChainInv) : (takeToken s).ChainInv := by
  obtain ⟨-, -, -, -, htotal⟩ := takeToken_fields hla
  have hrecorded : ChainsBelow s.wtotal { s with tok := s.tok ++ [nextToken s] } := h
  show ChainsBelow (takeToken s).wtotal (takeToken s)
  rw [htotal]
  exact windowAppendAll_chainsBelow _ (insertRange_chainsBelow (hrecorded.mono (Nat.le_add_right _ _)) (Nat.le_refl _))

/-- Emitting a block leaves an empty token buffer (R202). -/
theorem emitBlock_tokensSafe (final : Bool) {s : State} (hp : s.params.Legal) (hc : s.ChainInv) :
    (emitBlock final s).TokensSafe := by
  rw [emitBlock_frame]
  exact ⟨hp, ⟨rfl, Nat.zero_le _, Nat.zero_le _, rfl, fun _ ht => absurd ht List.not_mem_nil⟩, hc⟩

theorem acceptToken_tokensSafe {s : State} (hla : 0 < s.la.length) (h : s.TokensSafe) : (acceptToken s).TokensSafe := by
  obtain ⟨hlegal, ⟨hbytes, -, htotal, hstate, htoks⟩, hchain⟩ := h
  obtain ⟨hparams', htok', hblk', hstate', htotal'⟩ := takeToken_fields hla
  have hlegal' : (takeToken s).params.Legal := hparams' ▸ hlegal
  have hchain' := takeToken_chainInv hla hchain
  rw [acceptToken_eq]
  split
  · exact emitBlock_tokensSafe false hlegal' hchain'
  · next hshort =>
    refine ⟨hlegal', ⟨?_, ?_, ?_, hstate'.trans hstate, fun t ht => ?_⟩, hchain'⟩
    · rw [hblk', htok', hbytes]
      simp
    · rw [hparams']
      omega
    · omega
    · rw [hparams']
      rw [htok', List.mem_append, List.mem_singleton] at ht
      rcases ht with ht | rfl
      · exact htoks t ht
      · exact nextToken_legal hchain

theorem windowAppend_tokensSafe (b : Byte) {s : State} (h : s.TokensSafe) : (windowAppend b s).TokensSafe := by
  obtain ⟨hlegal, ⟨hbytes, hshort, htotal, hstate, htoks⟩, hchain⟩ := h
  have hbelow : ChainsBelow (s.wtotal + 1) (windowAppend b s) := by
    rw [windowAppend_frame b s]
    exact ChainsBelow.mono hchain (Nat.le_succ _)
  have hwtotal : (windowAppend b s).wtotal = s.wtotal + 1 := windowAppend_wtotal b s
  refine ⟨?_, ⟨?_, ?_, ?_, ?_, ?_⟩, ?_⟩
  · rwa [windowAppend_params]
  · rwa [windowAppend_blkBytes, windowAppend_tok]
  · simpa only [windowAppend_blkBytes, windowAppend_params] using hshort
  · rw [windowAppend_blkBytes, hwtotal]
    omega
  · rwa [windowAppend_estate]
  · rwa [windowAppend_tok, windowAppend_params]
  · show ChainsBelow (windowAppend b s).wtotal _
    rwa [hwtotal]

/-- An empty token buffer and empty chains are true ones. -/
theorem resetState_tokensSafe {s : State} (h : s.params.Legal) : (resetState s).TokensSafe :=
  ⟨h, ⟨rfl, Nat.zero_le _, Nat.le_refl _, rfl, fun _ ht => absurd ht List.not_mem_nil⟩,
    fun _ he => absurd he List.not_mem_nil, fun _ he => absurd he List.not_mem_nil⟩

theorem tokensSafe_keptByOps : KeptByOps State.TokensSafe where
  control h hf := by rw [hf]; exact h
  append b h := windowAppend_tokensSafe b h
  put _ _ h := h
  accept _ hla h := acceptToken_tokensSafe hla h
  emit final _ h := emitBlock_tokensSafe final h.1 h.2.2
  opened _ h := resetState_tokensSafe h.1

/-- Settles O54: the output side is kept by every bit put and every byte appended, the token buffer and the chains by
every token accepted. -/
theorem stepKeepsEncoder : Obligations.StepKeepsEncoder := by
  intro s t hlegal hsink hcount hblock hchain hs
  obtain ⟨hsink', hcount'⟩ : t.OutputSafe :=
    outputSafe_keptByParts.keptByOps.step (fun h hf => by rw [hf]; exact h) (fun _ => resetState_outputSafe _) hs
      ⟨hsink, hcount⟩
  obtain ⟨hlegal', hblock', hchain'⟩ : t.TokensSafe :=
    tokensSafe_keptByOps.step (fun h hf => by rw [hf]; exact h) (fun h => resetState_tokensSafe h.1) hs
      ⟨hlegal, hblock, hchain⟩
  exact ⟨hlegal', hsink', hcount', hblock', hchain'⟩

end Sys2Proof.Machine

/-! PROOFS. Phase, mode, fault record, header registers and decode tables (spec 10_state R31, R35, 30_encoding R100,
45_inflate R240 to R250, 47_commands R291), and that every step completes. -/

namespace Sys2Proof.Machine

/-- Phase, fault record, tables and header registers are legal (R35, R100, R240, R246, R291). -/
def State.DecoderSafe (s : State) : Prop := s.FaultInv ∧ s.PhaseInv ∧ s.TablesInv ∧ s.HeaderInv

/-- Only what `DecoderSafe` does not read may differ: mode, phase, the fault record, the header registers and the
tables are the same. -/
abbrev DatapathFrame (s t : State) : Prop :=
  t = { s with
    params := t.params, hostq := t.hostq, out := t.out, rdata := t.rdata, oacc := t.oacc, onb := t.onb
    bitposOut := t.bitposOut, inq := t.inq, bitposIn := t.bitposIn, cursor := t.cursor, pendLen := t.pendLen
    la := t.la, win := t.win, wpos := t.wpos, whave := t.whave, wtotal := t.wtotal, head := t.head, prev := t.prev
    effort := t.effort, tok := t.tok, blkBytes := t.blkBytes, estate := t.estate, finalSent := t.finalSent
    bfinal := t.bfinal, rem := t.rem, cll := t.cll, s1 := t.s1, s2 := t.s2, totalIn := t.totalIn
    totalOut := t.totalOut, level := t.level, outLimit := t.outLimit, verify := t.verify, ckExpect := t.ckExpect
    trail := t.trail, pending := t.pending, errPos := t.errPos }

theorem DatapathFrame.trans {s t u : State} (h : DatapathFrame s t) (k : DatapathFrame t u) : DatapathFrame s u := by
  simp only [DatapathFrame] at *
  rw [k]
  rw [h]

theorem WindowFrame.datapathFrame {s t : State} (h : WindowFrame s t) : DatapathFrame s t := by
  simp only [DatapathFrame]
  rw [h]

theorem OutputFrame.datapathFrame {s t : State} (h : OutputFrame s t) : DatapathFrame s t := by
  simp only [DatapathFrame]
  rw [h]

theorem HostFrame.datapathFrame {s t : State} (h : HostFrame s t) : DatapathFrame s t := by
  simp only [DatapathFrame]
  rw [h]

theorem State.DecoderSafe.of_frame {s t : State} (h : s.DecoderSafe) (hf : DatapathFrame s t) : t.DecoderSafe := by
  rw [hf]
  exact h

/-! ## Tables -/

theorem mem_symbolsOfLen_lt {lens : List Nat} {l y : Nat} (h : y ∈ symbolsOfLen lens l) : y < lens.length := by
  obtain ⟨e, he, rfl⟩ := List.mem_map.mp h
  have hmem := List.mem_zipIdx (List.mem_of_mem_filter he)
  omega

/-- A decode table holds symbols of the list of lengths it was built from (R185). -/
theorem rawTable_sorted_lt {lens : List Nat} {y : Nat} (h : y ∈ (rawTable lens).sorted) : y < lens.length := by
  obtain ⟨k, -, hk⟩ := List.mem_flatMap.mp h
  exact mem_symbolsOfLen_lt hk

theorem buildDecodeTable_sorted_lt {lens : List Nat} {T : DecodeTable} (hT : buildDecodeTable lens = some T) {y : Nat}
    (h : y ∈ T.sorted) : y < lens.length := by
  unfold buildDecodeTable at hT
  split at hT
  · cases hT
  · cases hT; exact rawTable_sorted_lt h

theorem headerLitLens_length_le {nlen : Nat} (lens : List (BitVec 4)) (h : nlen ≤ nLitLen) :
    (headerLitLens nlen lens).length ≤ nLitLen := by
  simp only [headerLitLens, List.length_rightpad, List.length_map, List.length_take]
  omega

theorem headerDistLens_length_le {ndist : Nat} (nlen : Nat) (lens : List (BitVec 4)) (h : ndist ≤ nDist) :
    (headerDistLens nlen ndist lens).length ≤ nDist := by
  simp only [headerDistLens, List.length_rightpad, List.length_map, List.length_take, List.length_drop]
  omega

theorem fixedTables_lt : (∀ y ∈ fixedLT.sorted, y < 288) ∧ ∀ y ∈ fixedDT.sorted, y < 32 := by
  have hl : fixedLitLens.length = 288 := by simp only [fixedLitLens, List.length_append, List.length_replicate]
  have hd : fixedDistLens.length = 32 := by simp only [fixedDistLens, List.length_replicate]
  exact ⟨fun y hy => hl ▸ rawTable_sorted_lt hy, fun y hy => hd ▸ rawTable_sorted_lt hy⟩

/-! ## What keeps the decoder safe -/

theorem raise_decoderSafe (c : Cause) {s : State} (h : s.DecoderSafe) : (raise c s).DecoderSafe := by
  obtain ⟨-, -, htables, hheader⟩ := h
  refine ⟨⟨fun _ => rfl, fun _ => rfl⟩, ⟨fun _ => .inr rfl, ?_, ?_⟩, htables, hheader⟩ <;>
    exact fun h => nomatch h

theorem resetState_decoderSafe (s : State) : (resetState s).DecoderSafe := by
  have hreset : State.reset.FaultInv ∧ State.reset.PhaseInv ∧ State.reset.TablesInv ∧ State.reset.HeaderInv := by
    decide
  exact hreset

theorem faultInv_of_none {s : State} (hp : s.phase ≠ .fault) (he : s.err = none) : s.FaultInv := by
  rw [State.FaultInv, he]
  exact ⟨fun h => absurd h hp, fun h => (nomatch h)⟩

/-- An open stream is safe: the decoder is as after reset, the phase ACTIVE. -/
theorem openStream_decoderSafe {m : Mode} (hm : m ≠ .none) (s : State) : (openStream m s).DecoderSafe := by
  obtain ⟨-, -, htables, hheader⟩ := resetState_decoderSafe s
  exact ⟨faultInv_of_none (fun h => nomatch h) rfl, ⟨fun h => absurd h hm, fun h => (nomatch h), fun h => (nomatch h)⟩,
    htables, hheader⟩

/-- In an open decompress stream only the tables and the header registers are at stake. -/
theorem decoderSafe_of_active {s : State} (hm : s.mode = .decompress) (hp : s.phase = .active) (he : s.err = none)
    (ht : s.TablesInv) (hh : s.HeaderInv) : s.DecoderSafe := by
  refine ⟨faultInv_of_none (by simp [hp]) he, ⟨?_, ?_, ?_⟩, ht, hh⟩ <;> simp [hm, hp]

theorem State.DecoderSafe.err_none {s : State} (h : s.DecoderSafe) (hp : s.phase ≠ .fault) : s.err = none := by
  obtain ⟨hfault, -⟩ := h
  cases he : s.err with
  | none => rfl
  | some c => exact absurd (hfault.mpr (by rw [he]; rfl)) hp

theorem endOfBlock_decoderSafe {s : State} (hm : s.mode = .decompress) (hp : s.phase = .active) (h : s.DecoderSafe) :
    (endOfBlock s).DecoderSafe := by
  have he : s.err = none := h.err_none (by simp [hp])
  obtain ⟨-, -, htables, hnlen, hndist, -⟩ := h
  refine decoderSafe_of_active hm hp he htables ⟨hnlen, hndist, ?_, ?_⟩ <;>
  · rw [endOfBlock_dstate]
    split <;> exact fun hd => nomatch hd

theorem storedByteTaken_decoderSafe (b : Byte) {s : State} (h : s.DecoderSafe) : (storedByteTaken b s).DecoderSafe :=
  have happended : (windowAppend b (commit s)).DecoderSafe :=
    State.DecoderSafe.of_frame (s := commit s) h (windowAppend_frame b (commit s)).datapathFrame
  happended.of_frame rfl

/-- Every move of an open decompress stream keeps the decoder safe. -/
theorem DecoderMove.decoderSafe {s t : State} (hmove : DecoderMove s t) (hm : s.mode = .decompress)
    (hp : s.phase = .active) (h : s.DecoderSafe) : t.DecoderSafe := by
  have he : s.err = none := h.err_none (by simp [hp])
  have ⟨_, _, htables, hheader⟩ := h
  have ⟨hclt, hlt, hdt⟩ := htables
  have ⟨hnlen, hndist, hcl, hlens⟩ := hheader
  have h286 : nLitLen = 286 := rfl
  have h30 : nDist = 30 := rfl
  have h19 : nCl = 19 := rfl
  cases hmove with
  | fault c => exact raise_decoderSafe c h
  | header final next hnext =>
    refine decoderSafe_of_active hm hp he htables ⟨hnlen, hndist, ?_, ?_⟩ <;>
    · rw [enterBlock_dstate]
      rcases hnext with rfl | rfl <;> exact fun hd => nomatch hd
  | fixedHeader final =>
    refine decoderSafe_of_active hm hp he ⟨hclt, fixedTables_lt⟩ ⟨hnlen, hndist, ?_, ?_⟩ <;> exact fun hd => nomatch hd
  | storedEmpty => exact endOfBlock_decoderSafe (s := { commit s with rem := 0 }) hm hp h
  | endBlock => exact endOfBlock_decoderSafe (s := commit s) hm hp h
  | storedLength len =>
    refine decoderSafe_of_active hm hp he htables ⟨hnlen, hndist, ?_, ?_⟩ <;> exact fun hd => nomatch hd
  | storedByte b => exact storedByteTaken_decoderSafe b h
  | storedLast b =>
    exact endOfBlock_decoderSafe (by simpa [storedByteTaken] using hm) (by simpa [storedByteTaken] using hp)
      (storedByteTaken_decoderSafe b h)
  | counts nlen ndist ncode hl hd hc =>
    have hl' : (BitVec.ofNat 9 nlen).toNat = nlen := by rw [BitVec.toNat_ofNat]; omega
    have hd' : (BitVec.ofNat 6 ndist).toNat = ndist := by rw [BitVec.toNat_ofNat]; omega
    have hc' : (BitVec.ofNat 5 ncode).toNat = ncode := by rw [BitVec.toNat_ofNat]; omega
    refine decoderSafe_of_active hm hp he htables ⟨?_, ?_, fun _ => ?_, fun h => (nomatch h)⟩
    · simpa only [hl'] using hl.2
    · simpa only [hd'] using hd.2
    · simp only [hl', hd', hc']
      exact ⟨hl.1, hd.1, hc.1, hc.2, lt_of_lt_of_le (by decide : 0 < 4) hc.1⟩
  | codeLength cll hd hmore =>
    obtain ⟨hn, hd1, hc4, hc19, hidx⟩ := hcl hd
    have hsucc : (s.idx + 1).toNat = s.idx.toNat + 1 := by
      show (s.idx.toNat + 1) % 2 ^ 5 = s.idx.toNat + 1
      omega
    have hne : s.idx.toNat + 1 ≠ s.ncode.toNat := fun heq => hmore (BitVec.eq_of_toNat_eq (hsucc.trans heq))
    refine decoderSafe_of_active hm hp he htables ⟨hnlen, hndist, fun _ => ⟨hn, hd1, hc4, hc19, ?_⟩, hlens⟩
    show (s.idx + 1).toNat < s.ncode.toNat
    omega
  | codeLengthTable cll T hd hT =>
    obtain ⟨hn, hd1, -⟩ := hcl hd
    have hlen : (cll.toList.map BitVec.toNat).length = nCl := by simp [nCl]
    refine decoderSafe_of_active hm hp he ⟨fun y hy => hlen ▸ buildDecodeTable_sorted_lt hT hy, hlt, hdt⟩
      ⟨hnlen, hndist, fun h => (nomatch h), fun _ => ⟨hn, hd1, ?_⟩⟩
    simp only [State.nl, List.length_nil, commit_nlen, commit_ndist]
    omega
  | lengths v n hmore =>
    refine decoderSafe_of_active hm hp he htables ⟨hnlen, hndist, hcl, fun hd => ?_⟩
    obtain ⟨hn, hd1, -⟩ := hlens hd
    refine ⟨hn, hd1, ?_⟩
    simpa [State.nl] using hmore
  | headerDone lens lt dt hltT hdtT =>
    refine decoderSafe_of_active hm hp he ⟨hclt, fun y hy => ?_, fun y hy => ?_⟩
      ⟨hnlen, hndist, fun h => (nomatch h), fun h => (nomatch h)⟩
    · have hy' := buildDecodeTable_sorted_lt hltT hy
      have hle := headerLitLens_length_le lens hnlen
      omega
    · have hy' := buildDecodeTable_sorted_lt hdtT hy
      have hle := headerDistLens_length_le s.nlen.toNat lens hndist
      omega
  | literal b => exact State.DecoderSafe.of_frame (s := commit s) h (windowAppend_frame b (commit s)).datapathFrame
  | matchLength k x => exact h
  | matchCopy length distance =>
    exact State.DecoderSafe.of_frame (s := commit s) h (windowCopy_frame distance length (commit s)).datapathFrame

theorem DecoderMove.mode {s t : State} (hmove : DecoderMove s t) : t.mode = s.mode := by
  cases hmove with
  | fault | header | fixedHeader | storedEmpty | storedLength | counts | codeLength | codeLengthTable | lengths
  | headerDone | matchLength | endBlock => rfl
  | storedByte b | storedLast b | literal b => exact windowAppend_mode b (commit s)
  | matchCopy length distance => rw [windowCopy_frame distance length (commit s)]; rfl

/-! ## Commands -/

/-- The outcome is a next state in which `P` holds. -/
def CompletesWith (P : State → Prop) (o : Host.Outcome State Fault Refusal) : Prop := ∃ t, o = .next t ∧ P t

theorem completesWith_next {P : State → Prop} {s : State} (h : P s) : CompletesWith P (.next s) := ⟨s, rfl, h⟩

theorem decoding_iff {s : State} :
    decoding s = true ↔ s.mode = .decompress ∧ s.phase = .active ∧ s.dstate ≠ .done := by
  simp [decoding, and_assoc]

/-- Every transition of the decoder completes, keeps the decoder safe and leaves the mode alone. -/
theorem decoderStep_decoderSafe {s : State} {o : Host.Outcome State Fault Refusal} (h : s.DecoderSafe)
    (hdec : decoding s = true) (ho : decoderStep exec s = some o) :
    ∃ t, o = .next t ∧ t.DecoderSafe ∧ t.mode = .decompress := by
  obtain ⟨hm, hp, -⟩ := decoding_iff.mp hdec
  obtain ⟨t, rfl⟩ := decoderStep_completes h.2.2.1 ho
  obtain ⟨n, hmove⟩ := decoderStep_move ho
  exact ⟨t, rfl, hmove.decoderSafe (s := advance n s) hm hp h, hmove.mode.trans hm⟩

theorem decodeStream_decoderSafe {s : State} (hm : s.mode = .decompress) (h : s.DecoderSafe) :
    ∃ t, decodeStream s = .next t ∧ t.DecoderSafe ∧ t.mode = .decompress :=
  decodeLoop_induction (P := fun s => s.DecoderSafe ∧ s.mode = .decompress)
    (Q := fun o => ∃ t, o = .next t ∧ t.DecoderSafe ∧ t.mode = .decompress)
    (fun s hs => ⟨s, rfl, hs⟩) (fun _ hs => hs)
    (fun _ o hs hdec ho => by
      obtain ⟨t, rfl, ht⟩ := decoderStep_decoderSafe hs.1 hdec ho
      exact ⟨⟨t, rfl, ht⟩, fun u hu => by cases hu; exact ht⟩) _ ⟨h, hm⟩

theorem endCommand_decoderSafe {s : State} (h : s.DecoderSafe) :
    CompletesWith State.DecoderSafe (.next (endCommand s)) := completesWith_next h

theorem badCommand_decoderSafe (c : Cause) {s : State} (h : s.DecoderSafe) :
    CompletesWith State.DecoderSafe (.next (badCommand c s)) := endCommand_decoderSafe (raise_decoderSafe c h)

theorem insertRange_datapathFrame (p n : Nat) (s : State) : DatapathFrame s (insertRange p n s) := by
  simp only [DatapathFrame]
  rw [insertRange_frame p n s]

theorem consumeToken_datapathFrame (n : Nat) (s : State) : DatapathFrame s (consumeToken n s) :=
  (windowAppendAll_frame (s.la.take n) s).datapathFrame.trans rfl

theorem emitBlock_datapathFrame (final : Bool) (s : State) : DatapathFrame s (emitBlock final s) := rfl

/-- Accepting a token leaves the decoder and the phase alone (R22, R158). -/
theorem acceptToken_datapathFrame (s : State) : DatapathFrame s (acceptToken s) := by
  have hrecorded : DatapathFrame s { s with tok := s.tok ++ [nextToken s] } := rfl
  have htaken : DatapathFrame s (takeToken s) :=
    (hrecorded.trans (insertRange_datapathFrame _ _ _)).trans (consumeToken_datapathFrame _ _)
  rw [acceptToken_eq]
  split
  · exact htaken.trans (emitBlock_datapathFrame _ _)
  · exact htaken

theorem tokenise_datapathFrame (finishing : Bool) {s : State} (hm : s.mode = .compress) :
    DatapathFrame s (tokenise finishing s) :=
  tokenise_induction (P := DatapathFrame s) (fun t _ _ ht => ht.trans (acceptToken_datapathFrame t)) finishing hm rfl

theorem putBits_datapathFrame (v n : Nat) (s : State) : DatapathFrame s (putBits v n s) :=
  (putBitList_frame _ s).datapathFrame

theorem alignOut_datapathFrame (s : State) : DatapathFrame s (alignOut s) := putBits_datapathFrame _ _ s

theorem syncMarker_datapathFrame (s : State) : DatapathFrame s (syncMarker s) :=
  ((((putBits_datapathFrame _ _ _).trans (putBits_datapathFrame _ _ _)).trans (alignOut_datapathFrame _)).trans
    (putBits_datapathFrame _ _ _)).trans (putBits_datapathFrame _ _ _)

theorem flushCompress_datapathFrame {s : State} (hm : s.mode = .compress) : DatapathFrame s (flushCompress s) := by
  have htok := tokenise_datapathFrame true hm
  unfold flushCompress
  dsimp only
  split
  · exact (htok.trans (emitBlock_datapathFrame _ _)).trans (syncMarker_datapathFrame _)
  · exact htok.trans (syncMarker_datapathFrame _)

/-- FINISH leaves the decoder alone up to the phase it sets (R297). -/
theorem alignedFinal_datapathFrame {s : State} (hm : s.mode = .compress) :
    DatapathFrame s (alignOut (emitBlock true (tokenise true s))) :=
  ((tokenise_datapathFrame true hm).trans (emitBlock_datapathFrame _ _)).trans (alignOut_datapathFrame _)

/-- A stream that is closed from an open phase is safe. -/
theorem finished_decoderSafe {s : State} (h : s.DecoderSafe) (hm : s.mode ≠ .none) (hp : s.phase ≠ .fault) :
    { s with phase := .finished }.DecoderSafe := by
  have he : s.err = none := h.err_none hp
  obtain ⟨-, -, htables, hheader⟩ := h
  exact ⟨faultInv_of_none (fun h => nomatch h) he,
    ⟨fun hn => absurd hn hm, fun h => (nomatch h), fun h => (nomatch h)⟩, htables, hheader⟩

theorem finishCompress_decoderSafe {s : State} (hm : s.mode = .compress) (hp : s.phase = .active)
    (h : s.DecoderSafe) : (finishCompress s).DecoderSafe := by
  have hframe := alignedFinal_datapathFrame hm
  unfold finishCompress
  refine finished_decoderSafe (h.of_frame hframe) ?_ ?_ <;> rw [hframe] <;> simp [hm, hp]

theorem finishDone_decoderSafe {s : State} (hp : s.phase = .done) (h : s.DecoderSafe) : (finishDone s).DecoderSafe := by
  have ⟨_, ⟨_, _, hdone⟩, _⟩ := h
  unfold finishDone
  split
  · exact raise_decoderSafe _ h
  · exact finished_decoderSafe h (by simp [hdone hp]) (by simp [hp])

theorem settleDecode_decoderSafe {s : State} (hm : s.mode = .decompress) (h : s.DecoderSafe) :
    (settleDecode s).DecoderSafe := by
  unfold settleDecode
  split
  · next hend =>
    have he : s.err = none := h.err_none (by simp [hend.1])
    obtain ⟨-, -, htables, hheader⟩ := h
    exact ⟨faultInv_of_none (fun h => nomatch h) he,
      ⟨fun hn => absurd (hm.symm.trans hn) (by decide), fun h => (nomatch h), fun _ => ⟨hm, hend.2⟩⟩, htables, hheader⟩
  · exact h

theorem execFeed_decoderSafe (chunk : List Byte) {s : State} (h : s.DecoderSafe) :
    CompletesWith State.DecoderSafe (execFeed chunk s) := by
  unfold execFeed
  split
  · exact badCommand_decoderSafe _ h
  · split
    · exact badCommand_decoderSafe _ h
    · next hm =>
      have hfed : DatapathFrame s { s with la := s.la ++ chunk, totalIn := s.totalIn + chunk.length } := rfl
      exact endCommand_decoderSafe (h.of_frame (hfed.trans (tokenise_datapathFrame false hm)))
    · next hm =>
      obtain ⟨t, ht, hsafe, hmt⟩ := decodeStream_decoderSafe (s := acceptInput chunk s) hm h
      unfold feedDecompress
      rw [ht]
      exact endCommand_decoderSafe (settleDecode_decoderSafe hmt hsafe)
  · exact endCommand_decoderSafe (s := feedDone chunk s) h
  · exact badCommand_decoderSafe _ h
  · exact completesWith_next h

theorem execFlush_decoderSafe {s : State} (h : s.DecoderSafe) : CompletesWith State.DecoderSafe (execFlush s) := by
  unfold execFlush
  split
  · exact badCommand_decoderSafe _ h
  · split
    · exact badCommand_decoderSafe _ h
    · next hm => exact endCommand_decoderSafe (h.of_frame (flushCompress_datapathFrame hm))
    · exact endCommand_decoderSafe h
  · exact endCommand_decoderSafe h
  · exact badCommand_decoderSafe _ h
  · exact completesWith_next h

theorem execFinish_decoderSafe {s : State} (h : s.DecoderSafe) : CompletesWith State.DecoderSafe (execFinish s) := by
  unfold execFinish
  split
  · exact badCommand_decoderSafe _ h
  · next hp =>
    split
    · exact badCommand_decoderSafe _ h
    · next hm => exact endCommand_decoderSafe (finishCompress_decoderSafe hm hp h)
    · exact endCommand_decoderSafe (raise_decoderSafe _ h)
  · next hp => exact endCommand_decoderSafe (finishDone_decoderSafe hp h)
  · exact badCommand_decoderSafe _ h
  · exact completesWith_next h

theorem execCinit_decoderSafe (s : State) : CompletesWith State.DecoderSafe (execCinit s) := by
  have hopen : (openStream .compress s).DecoderSafe := openStream_decoderSafe (by decide) s
  refine endCommand_decoderSafe ?_
  split
  · exact raise_decoderSafe _ hopen
  · exact hopen.of_frame rfl

theorem reservedCommand_decoderSafe {s : State} (h : s.DecoderSafe) :
    CompletesWith State.DecoderSafe (.next (reservedCommand s)) := by
  unfold reservedCommand
  split
  · exact completesWith_next h
  · exact badCommand_decoderSafe _ h

/-- Every command completes and keeps the decoder safe. -/
theorem exec_command_decoderSafe {i : Instr} (hcmd : (encode i).format = .cmd) {s : State} (h : s.DecoderSafe) :
    CompletesWith State.DecoderSafe (exec i s) := by
  cases i with
  | reset => exact endCommand_decoderSafe (resetState_decoderSafe s)
  | cinit => exact execCinit_decoderSafe s
  | dinit => exact endCommand_decoderSafe (openStream_decoderSafe (by decide) s)
  | feed chunk => exact execFeed_decoderSafe chunk h
  | flush => exact execFlush_decoderSafe h
  | finish => exact execFinish_decoderSafe h
  | cmdReserved00 | cmdReserved07 | cmdReserved080F _ | cmdReserved101F _ | cmdReserved203F _
  | cmdReserved407F _ | cmdReserved80FF _ => exact reservedCommand_decoderSafe h
  | _ => exact nomatch hcmd

/-! ## Steps -/

theorem accessStep_decoderSafe (a : HostAccess) {s : State} (h : s.DecoderSafe) :
    CompletesWith State.DecoderSafe (accessStep a s) := by
  unfold accessStep
  rcases accessEffect_cases a s with ⟨i, hi, hcmd⟩ | ⟨t, ht, hframe⟩ | hr
  · rw [hi]
    exact exec_command_decoderSafe hcmd h
  · rw [ht]
    exact completesWith_next (h.of_frame hframe.datapathFrame)
  · rw [hr]
    exact completesWith_next (resetState_decoderSafe s)

theorem streamStep_decoderSafe {s : State} (h : s.DecoderSafe) : CompletesWith State.DecoderSafe (streamStep s) := by
  unfold streamStep
  split
  · next hdec =>
    cases ho : decoderStep exec s with
    | none => exact completesWith_next h
    | some o =>
      obtain ⟨t, rfl, ht, -⟩ := decoderStep_decoderSafe h hdec ho
      exact completesWith_next ht
  · exact completesWith_next h

/-- Settles O53: a step is an access of the host or a transition of the decoder, and each of them completes and keeps
the decoder safe. -/
theorem stepKeepsPhaseAndDecoder : Obligations.StepKeepsPhaseAndDecoder := by
  intro s hfault hphase htables hheader
  have h : s.DecoderSafe := ⟨hfault, hphase, htables, hheader⟩
  show CompletesWith State.DecoderSafe (step s)
  unfold step
  split
  · next a rest _ => exact accessStep_decoderSafe a (s := { s with hostq := rest }) h
  · exact streamStep_decoderSafe h

end Sys2Proof.Machine

/-! PROOFS. The host's side of the block: what instructions leave alone, the register file, `STATUS` and `ERR` (spec
10_state R30, R35, 20_memory R60, R68, 47_commands R303, 60_exceptions R320 to R328). -/

namespace Sys2Proof.Machine

/-! ## What instructions leave alone -/

/-- No output of `s` is taken back, and the parameters, the accesses and the delivered word are those of `s`. -/
def KeepsHostSide (s t : State) : Prop :=
  s.out <+: t.out ∧ t.params = s.params ∧ t.hostq = s.hostq ∧ t.rdata = s.rdata

theorem windowAppend_keepsHostSide (b : Byte) {s t : State} (h : KeepsHostSide s t) :
    KeepsHostSide s (windowAppend b t) := by
  obtain ⟨hout, hrest⟩ := h
  refine ⟨?_, by simpa using hrest⟩
  rw [windowAppend_out]
  split
  · exact hout.trans (List.prefix_append _ _)
  · exact hout

theorem windowAppend_sameConfig (b : Byte) {s t : State} (h : SameConfig s t) : SameConfig s (windowAppend b t) := by
  simpa only [SameConfig, windowAppend_level, windowAppend_outLimit, windowAppend_verify, windowAppend_ckExpect] using h

/-- No operation takes output back, and none but a reset writes a configuration register (R30, R60). -/
theorem keepsHostSide_keptByParts (s : State) : KeptByParts fun t => KeepsHostSide s t ∧ SameConfig s t where
  control h hf := by rw [hf]; exact h
  append b h := ⟨windowAppend_keepsHostSide b h.1, windowAppend_sameConfig b h.2⟩
  put bits _ h := ⟨⟨h.1.1.trans (putBitList_out_prefix bits _), h.1.2⟩, h.2⟩
  buffer h hf := by rw [hf]; exact h
  insert _ h := h
  opened _ h := h

/-- Settles O56: RESET by its definition, every other instruction since each operation only adds to the output and
writes no configuration register. -/
theorem instructionsKeepHostSide : Obligations.InstructionsKeepHostSide := by
  intro i s t he
  have hrefl : KeepsHostSide s s := ⟨List.prefix_rfl, rfl, rfl, rfl⟩
  by_cases hi : i = .reset
  · subst hi
    cases he
    exact ⟨List.prefix_rfl, fun h => absurd rfl h, rfl, rfl, rfl⟩
  · obtain ⟨⟨hout, hrest⟩, hconfig⟩ :=
      (keepsHostSide_keptByParts s).keptByOps.exec hi (s := s) ⟨hrefl, rfl, rfl, rfl, rfl⟩ t he
    exact ⟨hout, fun _ => hconfig, hrest⟩

/-! ## Accesses of the host -/

/-- A step takes the oldest access from the queue; one that starts no command is then complete (R68, R303). -/
theorem step_of_done {a : HostAccess} {rest : List HostAccess} {s t : State} (hq : s.hostq = a :: rest)
    (ha : accessEffect a { s with hostq := rest } = .done t) : step s = .next t := by
  simp only [step, hq, accessStep, ha]

theorem accessEffect_write {reg : Nat} (h : reg ≠ 0) (v : Word32) (chunk : List Byte) (s : State) :
    accessEffect (.write reg v chunk) s = .done (writeReg reg v s) := if_neg h

/-- A write reaches the configuration register it names, in its writable bits, and nothing else (R30, R303). -/
theorem writeReg_eq (reg : Nat) (v : Word32) (s : State) :
    writeReg reg v s = { s with
      level := if reg = 2 then v.setWidth 8 else s.level
      outLimit := if reg = 3 then v else s.outLimit
      verify := if reg = 4 then v.getLsbD 0 else s.verify
      ckExpect := if reg = 5 then v else s.ckExpect } := by
  unfold writeReg
  split <;> simp_all

theorem takeByte_cons {b : Byte} {bytes : List Byte} {s : State} (h : s.out = b :: bytes) :
    takeByte s = { s with out := bytes, rdata := b.setWidth 32 } := by
  simp only [takeByte, h]

theorem takeByte_nil {s : State} (h : s.out = []) : takeByte s = s := by
  simp only [takeByte, h]

/-! ## Reads of the register file -/

theorem toNat_lowWord (n : Nat) : (lowWord n).toNat = n % 2 ^ 32 := BitVec.toNat_ofNat _ _

theorem toNat_highWord (n : Nat) : (highWord n).toNat = n / 2 ^ 32 % 2 ^ 32 := BitVec.toNat_ofNat _ _

/-- A word put together from a high and a low field that do not overlap. -/
theorem toNat_shiftLeft_or {w : Nat} (hi lo : BitVec w) (hw : w + w ≤ 32) :
    (hi.setWidth 32 <<< w ||| lo.setWidth 32).toNat = hi.toNat * 2 ^ w + lo.toNat := by
  have hhi := hi.isLt
  have hlo := lo.isLt
  have hle : 2 ^ w * 2 ^ w ≤ 2 ^ 32 := by
    rw [← Nat.pow_add]
    exact Nat.pow_le_pow_right (by decide) hw
  have hlt32 : 2 ^ w ≤ 2 ^ 32 := Nat.pow_le_pow_right (by decide) (by omega)
  have hprod : hi.toNat * 2 ^ w < 2 ^ 32 :=
    lt_of_lt_of_le (Nat.mul_lt_mul_of_pos_right hhi (Nat.two_pow_pos w)) hle
  rw [BitVec.toNat_or, BitVec.toNat_shiftLeft, BitVec.toNat_setWidth, BitVec.toNat_setWidth,
    Nat.mod_eq_of_lt (lt_of_lt_of_le hhi hlt32), Nat.mod_eq_of_lt (lt_of_lt_of_le hlo hlt32), Nat.shiftLeft_eq,
    Nat.mod_eq_of_lt hprod, Nat.mul_comm, Nat.two_pow_add_eq_or_of_lt hlo]

theorem toNat_adler (s : State) : (adler s).toNat = s.s2.toNat * 2 ^ 16 + s.s1.toNat :=
  toNat_shiftLeft_or s.s2 s.s1 (by decide)

theorem toNat_errWord (s : State) : (errWord s).toNat = (errInfo s).toNat * 2 ^ 8 + (errCode s).toNat :=
  toNat_shiftLeft_or (errInfo s) (errCode s) (by decide)

theorem readReg_of_ge {n : Nat} (h : 14 ≤ n) (s : State) : readReg n s = 0 := by
  obtain ⟨k, rfl⟩ := Nat.exists_eq_add_of_le' h
  rfl

/-- Settles O42: each access by its effect, each register by its place in the map. -/
theorem hostRegisterAccess : Obligations.HostRegisterAccess := by
  intro n v chunk rest s
  refine ⟨fun hq => step_of_done hq rfl, rfl, rfl, rfl, ?_, rfl, toNat_adler s, toNat_lowWord _, toNat_highWord _,
    toNat_lowWord _, toNat_highWord _, toNat_lowWord _, toNat_highWord _, fun hn => readReg_of_ge hn s,
    fun b bytes hq hout => ?_, fun hq hout => ?_, fun hq hn => ?_⟩
  · show (BitVec.ofNat 32 s.verify.toNat).toNat = s.verify.toNat
    cases s.verify <;> rfl
  · exact step_of_done hq (congrArg AccessEffect.done (takeByte_cons hout))
  · exact step_of_done hq (congrArg AccessEffect.done (takeByte_nil hout))
  · exact step_of_done hq ((accessEffect_write hn v chunk _).trans (congrArg AccessEffect.done (writeReg_eq n v _)))

/-! ## `STATUS` and `ERR` -/

theorem Mode.code_le (m : Mode) : m.code ≤ 2 := by cases m <;> decide

theorem Phase.code_le (p : Phase) : p.code ≤ 4 := by cases p <;> decide

/-- The fields of `STATUS` do not overlap (R35). -/
theorem toNat_statusWord (s : State) :
    (statusWord s).toNat =
      s.mode.code + 4 * s.phase.code + 32 * s.trail.toNat + 64 * (lastFlag s).toNat + 128 * s.pending.toNat := by
  have hmode := s.mode.code_le
  have hphase := s.phase.code_le
  have htrail := Bool.toNat_le s.trail
  have hlast := Bool.toNat_le (lastFlag s)
  have hpending := Bool.toNat_le s.pending
  rw [statusWord, BitVec.toNat_ofNat, Nat.mod_eq_of_lt (by omega)]
  omega

theorem readReg_err_of_none {s : State} (h : s.err = none) : readReg 7 s = 0 := by
  show errWord s = 0
  simp [errWord, errInfo, errCode, h]

theorem toNat_readReg_err_raise (c : Cause) (s : State) :
    (readReg 7 (raise c s)).toNat = c.info.toNat * 2 ^ 8 + c.code.toNat := toNat_errWord (raise c s)

/-- The position is recorded for every cause but those of a command and of the checksum (R325). -/
theorem recordedPos_eq (c : Cause) (n : Nat) :
    (if c.hasPos then n else 0) = if c.code.toNat = 5 ∨ c.code.toNat = 8 ∨ c.code.toNat = 9 then 0 else n := by
  cases c <;> rfl

theorem raise_eq (c : Cause) (s : State) :
    raise c s = { s with
      cursor := 0, pendLen := none, err := some c, phase := .fault
      errPos := if c.code.toNat = 5 ∨ c.code.toNat = 8 ∨ c.code.toNat = 9 then 0 else s.bitposIn } := by
  rw [← recordedPos_eq]
  rfl

/-- Settles O43: `STATUS` by its fields, a raised cause row by row. -/
theorem statusAndErrRegisters : Obligations.StatusAndErrRegisters := by
  intro s
  refine ⟨?_, readReg_err_of_none, ?_⟩
  · show (statusWord s).toNat = _
    rw [toNat_statusWord, lastFlag]
    cases s.mode <;> cases s.phase <;> rfl
  · intro e he
    have hrow : e.2.1 = e.1.code.toNat ∧ e.2.2 = e.1.info.toNat := by revert e; decide
    rw [hrow.1, hrow.2]
    refine ⟨raise_eq e.1 s, ?_⟩
    rw [toNat_readReg_err_raise]
    omega

end Sys2Proof.Machine

/-! PROOFS. Canonical codes: a code fits in its length, and `DecodeSym` on the decode table gives back the symbol
whose code stands at the front of the bits (spec 43_huffman R175, R185, R186, 40_bitio R126). -/

namespace Sys2Proof.Machine

/-! ## The first code of each length -/

/-- The first stream bit of a code is its highest bit (R61). -/
theorem bitsMSB_succ (v n : Nat) : bitsMSB v (n + 1) = v.testBit n :: bitsMSB v n := by
  simp [bitsMSB, bitsLSB, List.range_succ]

theorem mod_two_pow_succ_testBit (v n : Nat) : v % 2 ^ (n + 1) = (v.testBit n).toNat * 2 ^ n + v % 2 ^ n := by
  rw [Nat.mod_pow_succ, Nat.toNat_testBit, Nat.mul_comm, Nat.add_comm]

/-- Codes only get longer: the first code of a later length lies behind every code of the first length. -/
theorem firstCodes_getD_ge {ns : List Nat} {k : Nat} (c below n : Nat) (hk : k < ns.length) :
    ((c + below) * 2 + n) * 2 ^ (k + 1) ≤ (firstCodes c below (n :: ns)).getD (k + 1) 0 := by
  induction ns generalizing c below n k with
  | nil => exact absurd hk (Nat.not_lt_zero k)
  | cons m ns ih =>
    rw [firstCodes, List.getD_cons_succ]
    cases k with
    | zero => simp [firstCodes]
    | succ k =>
      have := ih (k := k) ((c + below) * 2) n m (by simpa using hk)
      refine le_trans ?_ this
      rw [Nat.pow_succ' (n := k + 1), ← Nat.mul_assoc]
      exact Nat.mul_le_mul_right _ (Nat.le_add_right _ _)

/-- What the Kraft inequality bounds: the codes of a length, from its first code on, fit in that many bits (R186). -/
theorem firstCodes_getD_add_le {ns : List Nat} {c below m k : Nat} (hk : k < ns.length)
    (h : (c + below) * 2 ^ ns.length + kraft ns ≤ 2 ^ (m + ns.length)) :
    (firstCodes c below ns).getD k 0 + ns.getD k 0 ≤ 2 ^ (m + k + 1) := by
  induction ns generalizing c below m k with
  | nil => exact absurd hk (Nat.not_lt_zero k)
  | cons n ns ih =>
    have hstep : ((c + below) * 2 + n) * 2 ^ ns.length + kraft ns ≤ 2 ^ (m + 1 + ns.length) := by
      calc ((c + below) * 2 + n) * 2 ^ ns.length + kraft ns
          = (c + below) * 2 ^ (n :: ns).length + kraft (n :: ns) := by
            rw [kraft, List.length_cons, Nat.pow_succ']; ring
        _ ≤ 2 ^ (m + (n :: ns).length) := h
        _ = 2 ^ (m + 1 + ns.length) := by rw [List.length_cons]; congr 1; omega
    cases k with
    | zero =>
      have hfit : ((c + below) * 2 + n) * 2 ^ ns.length ≤ 2 ^ (m + 1) * 2 ^ ns.length := by
        rw [← Nat.pow_add]; omega
      exact Nat.le_of_mul_le_mul_right hfit (Nat.two_pow_pos _)
    | succ k =>
      have := ih (k := k) (by simpa using hk) hstep
      rwa [show m + 1 + k + 1 = m + (k + 1) + 1 by omega] at this

@[simp] theorem length_firstCodes (c below : Nat) (ns : List Nat) : (firstCodes c below ns).length = ns.length := by
  induction ns generalizing c below with
  | nil => rfl
  | cons n ns ih => simp [firstCodes, ih]

theorem firstCodes_take (c below m : Nat) (ns : List Nat) :
    firstCodes c below (ns.take m) = (firstCodes c below ns).take m := by
  induction ns generalizing c below m with
  | nil => simp [firstCodes]
  | cons n ns ih => cases m with
    | zero => rfl
    | succ m => simp [firstCodes, ih]

/-! ## The loop of `DecodeSym` -/

/-- `DecodeSym` stops at the length whose range of codes holds the bits read so far (R126): it has passed every
shorter length, since the codes of that length lie behind theirs, and finds the symbol by its rank. -/
theorem decodeSymLoop_of_code {sorted ns : List Nat} {c below code index k v r y : Nat} (n : Nat) (rest : List Bool)
    (hk : k < ns.length) (hr : r < ns.getD k 0)
    (hcode : code * 2 ^ k + v % 2 ^ (k + 1) = (firstCodes c below ns).getD k 0 + r)
    (hy : sorted[index + (ns.take k).sum + r]? = some y) :
    decodeSymLoop sorted ns code ((c + below) * 2) index n (bitsMSB v (k + 1) ++ rest) = .sym y (n + k + 1) := by
  induction ns generalizing c below code index k n with
  | nil => exact absurd hk (Nat.not_lt_zero k)
  | cons m ns ih =>
    rw [bitsMSB_succ, List.cons_append, decodeSymLoop]
    rw [mod_two_pow_succ_testBit] at hcode
    cases k with
    | zero =>
      have hr' : r < m := hr
      have hcode' : code + (v.testBit 0).toNat = (c + below) * 2 + r := by
        simpa [firstCodes, Nat.mod_one] using hcode
      rw [if_pos (by omega), hcode', Nat.add_sub_cancel_left]
      have hy' : sorted[index + r]? = some y := by simpa using hy
      rw [hy']
    | succ k =>
      have hk' : k < ns.length := by simpa using hk
      have hrem : v % 2 ^ (k + 1) < 2 ^ (k + 1) := Nat.mod_lt _ (Nat.two_pow_pos _)
      have hpast : ((c + below) * 2 + m) * 2 ^ (k + 1) < (code + (v.testBit (k + 1)).toNat + 1) * 2 ^ (k + 1) := by
        have := firstCodes_getD_ge c below m hk'
        rw [Nat.add_mul _ 1, Nat.add_mul code]
        omega
      have hpast' := Nat.lt_of_mul_lt_mul_right hpast
      rw [if_neg (by omega), show n + (k + 1) + 1 = n + 1 + k + 1 by omega]
      refine ih (n + 1) hk' hr ?_ ?_
      · rw [firstCodes, List.getD_cons_succ] at hcode
        rw [← hcode, Nat.pow_succ']
        ring
      · rwa [List.take_succ_cons, List.sum_cons, ← Nat.add_assoc index] at hy

/-! ## The code of a symbol -/

theorem lt_length_of_getD_ne_zero {lens : List Nat} {y : Nat} (h : lens.getD y 0 ≠ 0) : y < lens.length := by
  by_contra hge
  exact h (List.getD_eq_default _ _ (by omega))

theorem getD_take_of_lt {l : List Nat} {m k : Nat} (h : k < m) : (l.take m).getD k 0 = l.getD k 0 := by
  rw [List.getD_eq_getElem?_getD, List.getElem?_take_of_lt h, List.getD_eq_getElem?_getD]

/-- The rank of a symbol among those of its length: how many of them come before it. -/
def codeRank (lens : List Nat) (y : Nat) : Nat := (lens.take y).count (lens.getD y 0)

theorem getD_modify_succ {next : List Nat} {i j : Nat} (hj : j < next.length) :
    (next.modify i (· + 1)).getD j 0 = next.getD j 0 + if i = j then 1 else 0 := by
  rw [List.getD_eq_getElem _ _ (by simpa using hj), List.getD_eq_getElem _ _ hj, List.getElem_modify]
  split <;> rfl

/-- The codes of a length are given out in the order of the symbols (R175). -/
theorem codesInOrder_getD {lens next : List Nat} {y : Nat} (hy : lens.getD y 0 ≠ 0)
    (hlt : lens.getD y 0 ≤ next.length) :
    (codesInOrder lens next).getD y 0 = next.getD (lens.getD y 0 - 1) 0 + codeRank lens y := by
  induction lens generalizing next y with
  | nil => exact absurd rfl hy
  | cons l ls ih =>
    cases y with
    | zero =>
      have hl : l ≠ 0 := hy
      simp [codesInOrder, hl, codeRank]
    | succ y =>
      rw [List.getD_cons_succ] at hy hlt ⊢
      rw [codesInOrder, codeRank, List.take_succ_cons, List.count_cons, List.getD_cons_succ]
      split
      · next hl =>
        have hne : ¬ 0 = ls.getD y 0 := fun h => hy h.symm
        rw [List.getD_cons_succ, ih hy hlt, codeRank, hl]
        simp only [beq_iff_eq, hne, if_false, Nat.add_zero]
      · next hl =>
        rw [List.getD_cons_succ, ih hy (by simpa using hlt), codeRank, getD_modify_succ (by omega), Nat.add_assoc]
        congr 1
        by_cases h : l = ls.getD y 0
        · rw [if_pos (by omega), if_pos (by simpa using h), Nat.add_comm]
        · rw [if_neg (by omega), if_neg (by simpa using h), Nat.zero_add, Nat.add_zero]

/-- A length in front of the others moves every symbol by one place, and adds symbol 0 where it is the length asked
for. -/
theorem symbolsOfLen_cons (x : Nat) (lens : List Nat) (l : Nat) :
    symbolsOfLen (x :: lens) l = (if x = l then [0] else []) ++ (symbolsOfLen lens l).map (· + 1) := by
  have hshift : lens.zipIdx 1 = (lens.zipIdx).map fun e => (e.1, e.2 + 1) := List.zipIdx_succ
  by_cases h : x = l <;>
    simp [symbolsOfLen, List.zipIdx_cons, h, hshift, List.filter_map, Function.comp_def]

@[simp] theorem length_symbolsOfLen (lens : List Nat) (l : Nat) : (symbolsOfLen lens l).length = lens.count l := by
  induction lens with
  | nil => rfl
  | cons x lens ih =>
    rw [symbolsOfLen_cons, List.length_append, List.length_map, ih, List.count_cons, Nat.add_comm]
    by_cases h : x = l <;> simp [h]

/-- Among the symbols of its length a symbol stands at its rank (R185). -/
theorem symbolsOfLen_getElem? {lens : List Nat} {y : Nat} (hy : y < lens.length) :
    (symbolsOfLen lens (lens.getD y 0))[codeRank lens y]? = some y := by
  induction lens generalizing y with
  | nil => exact absurd hy (Nat.not_lt_zero y)
  | cons x lens ih =>
    cases y with
    | zero => simp [symbolsOfLen_cons, codeRank]
    | succ y =>
      have := ih (y := y) (by simpa using hy)
      rw [codeRank] at this ⊢
      rw [List.getD_cons_succ, symbolsOfLen_cons, List.take_succ_cons, List.count_cons]
      by_cases h : x = lens.getD y 0
      · rw [if_pos h, if_pos (by simpa using h), List.singleton_append, List.getElem?_cons_succ, List.getElem?_map,
          this]
        rfl
      · rw [if_neg h, if_neg (by simpa using h), List.nil_append, Nat.add_zero, List.getElem?_map, this]
        rfl

theorem codeRank_lt {lens : List Nat} {y : Nat} (hy : y < lens.length) :
    codeRank lens y < lens.count (lens.getD y 0) := by
  rw [← length_symbolsOfLen]
  exact (List.getElem?_eq_some_iff.mp (symbolsOfLen_getElem? hy)).1

/-- In the sorted symbols, those of a length stand behind those of all shorter lengths (R185). -/
theorem sortedSymbols_getElem? {lens : List Nat} {k r y : Nat} (hk : k < 15)
    (hy : (symbolsOfLen lens (k + 1))[r]? = some y) :
    (sortedSymbols lens)[((lenCounts 15 lens).take k).sum + r]? = some y := by
  have hcounts : lenCounts 15 lens =
      ((List.range 15).map fun k => symbolsOfLen lens (k + 1)).map List.length := by
    rw [List.map_map]
    exact List.map_congr_left fun k _ => (length_symbolsOfLen lens (k + 1)).symm
  have hat : ((List.range 15).map fun k => symbolsOfLen lens (k + 1)).drop k =
      symbolsOfLen lens (k + 1) :: ((List.range 15).map fun k => symbolsOfLen lens (k + 1)).drop (k + 1) := by
    rw [List.drop_eq_getElem_cons (by simpa using hk)]
    simp
  rw [sortedSymbols, List.flatMap_def, ← List.getElem?_drop, hcounts, List.drop_sum_flatten, hat, List.flatten_cons]
  rw [List.getElem?_append_left (List.getElem?_eq_some_iff.mp hy).1, hy]

/-! ## `DecodeSym` inverts the assignment -/

theorem lenCounts_getD {m k : Nat} (lens : List Nat) (hk : k < m) :
    (lenCounts m lens).getD k 0 = lens.count (k + 1) := by
  simp [lenCounts, hk, lenCount, List.count]

@[simp] theorem length_lenCounts (m : Nat) (lens : List Nat) : (lenCounts m lens).length = m := by simp [lenCounts]

theorem maxUsedLen_eq_zero_or_le (l : Nat) (counts : List Nat) :
    maxUsedLen l counts = 0 ∨ l ≤ maxUsedLen l counts := by
  induction counts generalizing l with
  | nil => exact .inl rfl
  | cons c cs ih =>
    have hlater := ih (l + 1)
    simp only [maxUsedLen]
    split_ifs <;> omega

/-- No length in use is above `maxUsedLen`. -/
theorem le_maxUsedLen {counts : List Nat} {k : Nat} (l : Nat) (h : counts.getD k 0 ≠ 0) :
    l + k ≤ maxUsedLen l counts := by
  induction counts generalizing l k with
  | nil => exact absurd rfl h
  | cons c cs ih =>
    simp only [maxUsedLen]
    cases k with
    | zero =>
      have hc : c ≠ 0 := h
      have hlater := maxUsedLen_eq_zero_or_le (l + 1) cs
      rw [if_neg hc]
      split_ifs <;> omega
    | succ k =>
      have hlater := ih (k := k) (l + 1) h
      rw [if_neg (by omega)]
      omega

theorem rawTable_count (lens : List Nat) : (rawTable lens).count = lenCounts 15 lens := rfl

theorem rawTable_maxlen (lens : List Nat) : (rawTable lens).maxlen = maxUsedLen 1 (lenCounts 15 lens) := by
  simp only [rawTable]

/-- The lengths that a decode table tries reach every length in use (R126, R185). -/
theorem lt_rawTable_maxlen {lens : List Nat} {k : Nat} (hk : k < 15) (h : 0 < lens.count (k + 1)) :
    k < (rawTable lens).maxlen := by
  have hcount : (lenCounts 15 lens).getD k 0 ≠ 0 := by
    rw [lenCounts_getD lens hk]
    omega
  have hused := le_maxUsedLen 1 hcount
  rw [rawTable_maxlen]
  omega

/-- The length of a coded symbol is one of 1 to 15. -/
theorem exists_getD_eq_succ {lens : List Nat} {y : Nat} (hlens : ∀ l ∈ lens, l ≤ 15) (hy : lens.getD y 0 ≠ 0) :
    ∃ k < 15, lens.getD y 0 = k + 1 := by
  have hmem : lens.getD y 0 ∈ lens := by
    rw [List.getD_eq_getElem _ _ (lt_length_of_getD_ne_zero hy)]
    exact List.getElem_mem _
  have hle := hlens _ hmem
  exact ⟨lens.getD y 0 - 1, by omega, by omega⟩

/-- A coded symbol, its length written as `k + 1`: its code is the first one of the length plus its rank (R175). -/
theorem assignCanonicalCodes_getD {lens : List Nat} {y k : Nat} (hy : lens.getD y 0 = k + 1) (hk : k < 15) :
    (assignCanonicalCodes lens).getD y 0 = (firstCodes 0 0 (lenCounts 15 lens)).getD k 0 + codeRank lens y := by
  have hlt : lens.getD y 0 ≤ (firstCodes 0 0 (lenCounts 15 lens)).length := by
    rw [hy, length_firstCodes, length_lenCounts]
    omega
  rw [assignCanonicalCodes, codesInOrder_getD (by omega) hlt, hy, Nat.add_sub_cancel]

/-- The codes of an accepted set fit in their lengths (R175, R186). -/
theorem assignCanonicalCodes_lt {lens : List Nat} {y k : Nat} (hover : overSubscribed lens = false)
    (hy : lens.getD y 0 = k + 1) (hk : k < 15) : (assignCanonicalCodes lens).getD y 0 < 2 ^ (k + 1) := by
  have hkraft : kraft (lenCounts 15 lens) ≤ 2 ^ 15 := by simpa [overSubscribed] using hover
  have hrank := codeRank_lt (lt_length_of_getD_ne_zero (lens := lens) (y := y) (by omega))
  have hfit := firstCodes_getD_add_le (ns := lenCounts 15 lens) (c := 0) (below := 0) (m := 0) (k := k)
    (by simpa using hk) (by simpa using hkraft)
  rw [lenCounts_getD lens hk, Nat.zero_add] at hfit
  rw [hy] at hrank
  rw [assignCanonicalCodes_getD hy hk]
  omega

/-- `DecodeSym` on the decode table of an accepted set inverts the canonical assignment, whatever bits follow (R126,
R185). -/
theorem decodeSym_canonicalCode {lens : List Nat} {y : Nat} (hlens : ∀ l ∈ lens, l ≤ 15)
    (hover : overSubscribed lens = false) (hy : lens.getD y 0 ≠ 0) (rest : List Bool) :
    decodeSym (rawTable lens) (bitsMSB ((assignCanonicalCodes lens).getD y 0) (lens.getD y 0) ++ rest) =
      .sym y (lens.getD y 0) := by
  obtain ⟨k, hk, hyk⟩ := exists_getD_eq_succ hlens hy
  have hrank := codeRank_lt (lt_length_of_getD_ne_zero hy)
  have hplace := symbolsOfLen_getElem? (lt_length_of_getD_ne_zero hy)
  rw [hyk] at hrank hplace ⊢
  have hmax := lt_rawTable_maxlen hk (Nat.zero_lt_of_lt hrank)
  have hlength : k < ((rawTable lens).count.take (rawTable lens).maxlen).length := by
    rw [List.length_take, rawTable_count, length_lenCounts]
    omega
  have hcount : codeRank lens y < ((rawTable lens).count.take (rawTable lens).maxlen).getD k 0 := by
    rwa [getD_take_of_lt hmax, rawTable_count, lenCounts_getD lens hk]
  have hcode : 0 * 2 ^ k + (assignCanonicalCodes lens).getD y 0 % 2 ^ (k + 1) =
      (firstCodes 0 0 ((rawTable lens).count.take (rawTable lens).maxlen)).getD k 0 + codeRank lens y := by
    rw [Nat.zero_mul, Nat.zero_add, Nat.mod_eq_of_lt (assignCanonicalCodes_lt hover hyk hk), firstCodes_take,
      getD_take_of_lt hmax]
    exact assignCanonicalCodes_getD hyk hk
  have hsorted : (rawTable lens).sorted[0 + (((rawTable lens).count.take (rawTable lens).maxlen).take k).sum +
      codeRank lens y]? = some y := by
    rw [List.take_take, Nat.min_eq_left hmax.le, Nat.zero_add]
    exact sortedSymbols_getElem? hk hplace
  simpa only [decodeSym, Nat.zero_mul, Nat.zero_add] using decodeSymLoop_of_code 0 rest hlength hcount hcode hsorted

end Sys2Proof.Machine

/-! PROOFS. Decoding inverts encoding (spec 30_encoding R81, R82, R88, R90 to R93), and the fetch reads an encoded
stream element back from the unread bits (R61, R85, R98, R126, R231). -/

namespace Sys2Proof.Machine

/-! ## Decoding inverts encoding -/

theorem le_of_byteIn {lo hi : Nat} {b : Byte} (h : byteIn lo hi b = true) : lo ≤ b.toNat ∧ b.toNat ≤ hi := by
  simpa [byteIn] using h

/-- The row of a length symbol is found by its number, and its extra field fits (R91). -/
theorem decode_lenRow {row : BitVec 5 → Instr} {k : Nat} {x : BitVec 5} (hrow : lenRows[k]? = some row)
    (hx : lenExtraFits k x = true) : decode ⟨.litlenSym, k + 257, x.toNat, []⟩ = .ok (row x) := by
  have hk : k < 29 := (List.getElem?_eq_some_iff.mp hrow).1
  have hfit : x.toNat < 2 ^ lenExtra.getD k 0 := by simpa [lenExtraFits] using hx
  show decodeLitLen (k + 257) x.toNat = _
  unfold decodeLitLen
  iterate 7 rw [if_neg (by omega)]
  simp only [Nat.add_sub_cancel, hrow, if_pos hfit, BitVec.ofNat_toNat, BitVec.setWidth_eq]

/-- The row of a distance symbol is found by its number, and its extra field fits (R93). -/
theorem decode_distRow {row : BitVec 13 → Instr} {j : Nat} {x : BitVec 13} (hrow : distRows[j]? = some row)
    (hx : distExtraFits j x = true) : decode ⟨.distSym, j, x.toNat, []⟩ = .ok (row x) := by
  have hj : j < 30 := (List.getElem?_eq_some_iff.mp hrow).1
  have hfit : x.toNat < 2 ^ distExtra.getD j 0 := by simpa [distExtraFits] using hx
  show decodeDist j x.toNat = _
  rw [decodeDist, if_neg (by omega)]
  simp only [hrow, if_pos hfit, BitVec.ofNat_toNat, BitVec.setWidth_eq]

/-- What the decoder reads from the encoding of a well-formed instruction is the instruction (R81 to R93). -/
theorem decode_encode {i : Instr} (h : i.wellFormed = true) : decode (encode i) = .ok i := by
  cases i with
  | reset | cinit | dinit | feed _ | flush | finish | cmdReserved00 | cmdReserved07 => rfl
  | cmdReserved080F b | cmdReserved101F b | cmdReserved203F b | cmdReserved407F b | cmdReserved80FF b =>
    obtain ⟨hlo, hhi⟩ := le_of_byteIn h
    show decodeCmd b.toNat [] = _
    unfold decodeCmd
    repeat rw [if_neg (by omega)]
    rw [if_pos hhi, BitVec.ofNat_toNat, BitVec.setWidth_eq]
  | blockStored final | blockFixed final | blockDynamic final | blockReserved final => cases final <;> rfl
  | lit000_127 b | lit128_143 b | lit144_159 b | lit160_191 b | lit192_255 b =>
    obtain ⟨hlo, hhi⟩ := le_of_byteIn h
    show decodeLitLen b.toNat 0 = _
    unfold decodeLitLen
    repeat rw [if_neg (by omega)]
    rw [if_pos hhi, BitVec.ofNat_toNat, BitVec.setWidth_eq]
  | eob => rfl
  | len257 x | len258 x | len259 x | len260 x | len261 x | len262 x | len263 x | len264 x | len265 x | len266 x
  | len267 x | len268 x | len269 x | len270 x | len271 x | len272 x | len273 x | len274 x | len275 x | len276 x
  | len277 x | len278 x | len279 x | len280 x | len281 x | len282 x | len283 x | len284 x | len285 x =>
    exact decode_lenRow rfl h
  | litlenInvalid286_287 low => revert low; decide
  | dist0 x | dist1 x | dist2 x | dist3 x | dist4 x | dist5 x | dist6 x | dist7 x | dist8 x | dist9 x | dist10 x
  | dist11 x | dist12 x | dist13 x | dist14 x | dist15 x | dist16 x | dist17 x | dist18 x | dist19 x | dist20 x
  | dist21 x | dist22 x | dist23 x | dist24 x | dist25 x | dist26 x | dist27 x | dist28 x | dist29 x =>
    exact decode_distRow rfl h
  | distInvalid30_31 low => revert low; decide
  | cl len => revert len; decide
  | rep16 x => revert x; decide
  | repz17 x => revert x; decide
  | repz18 x => revert x; decide

/-- The extra field of a well-formed instruction fits in the extra bits of its symbol (R88, R91, R93). -/
theorem encode_extra_lt {i : Instr} (h : i.wellFormed = true) :
    (encode i).extra < 2 ^ extraWidth (encode i).format (encode i).code := by
  cases i with
  | len257 x | len258 x | len259 x | len260 x | len261 x | len262 x | len263 x | len264 x | len265 x | len266 x
  | len267 x | len268 x | len269 x | len270 x | len271 x | len272 x | len273 x | len274 x | len275 x | len276 x
  | len277 x | len278 x | len279 x | len280 x | len281 x | len282 x | len283 x | len284 x | len285 x =>
    exact (Laws.CodeFits.of_len _ x (by decide) rfl rfl h).2.1
  | dist0 x | dist1 x | dist2 x | dist3 x | dist4 x | dist5 x | dist6 x | dist7 x | dist8 x | dist9 x | dist10 x
  | dist11 x | dist12 x | dist13 x | dist14 x | dist15 x | dist16 x | dist17 x | dist18 x | dist19 x | dist20 x
  | dist21 x | dist22 x | dist23 x | dist24 x | dist25 x | dist26 x | dist27 x | dist28 x | dist29 x =>
    exact (Laws.CodeFits.of_dist _ x (by decide) rfl rfl h).2.1
  | rep16 x | repz17 x | repz18 x => exact x.isLt
  | _ => exact Nat.two_pow_pos _

theorem encode_code_lt_of_blockHdr {i : Instr} (h : (encode i).format = .blockHdr) : (encode i).code < 2 ^ 3 := by
  cases i with
  | blockStored final => exact (Laws.CodeFits.blockStored final rfl).1
  | blockFixed final => exact (Laws.CodeFits.blockFixed final rfl).1
  | blockDynamic final => exact (Laws.CodeFits.blockDynamic final rfl).1
  | blockReserved final => exact (Laws.CodeFits.blockReserved final rfl).1
  | _ => cases h

/-- Only a command has a chunk (R81). -/
theorem decode_without_chunk {e : Encoded} (h : e.format ≠ .cmd) :
    decode ⟨e.format, e.code, e.extra, []⟩ = decode e := by
  obtain ⟨f, code, extra, chunk⟩ := e
  cases f with
  | cmd => exact absurd rfl h
  | blockHdr | litlenSym | distSym | clSym => rfl

/-- A header has neither an extra field nor a chunk (R82). -/
theorem decode_without_extra {e : Encoded} (h : e.format = .blockHdr) :
    decode ⟨.blockHdr, e.code, 0, []⟩ = decode e := by
  obtain ⟨f, code, extra, chunk⟩ := e
  cases h
  rfl

/-! ## The fetch of an encoded element -/

/-- The stream bits of a symbol are its code and its extra field, whatever the alphabet (R85). -/
theorem streamBits_symbol {lens : List Nat} {i : Instr} (hcmd : (encode i).format ≠ .cmd)
    (hhdr : (encode i).format ≠ .blockHdr) :
    streamBits lens lens lens i = symbolBits lens (encode i).format (encode i).code (encode i).extra := by
  simp only [streamBits]
  cases hf : (encode i).format with
  | cmd => exact absurd hf hcmd
  | blockHdr => exact absurd hf hhdr
  | litlenSym | distSym | clSym => rfl

theorem length_symbolBits (lens : List Nat) (f : Format) (y x : Nat) :
    (symbolBits lens f y x).length = lens.getD y 0 + extraWidth f y := by
  simp only [symbolBits, List.length_append, length_bitsMSB, length_bitsLSB]

/-- All extra bits are asked for but those of a repeat with nothing to repeat (R246, R330). -/
theorem extraAsked_eq {f : Format} {y : Nat} {s : State} (h : f = .clSym → y = 16 → s.lens ≠ []) :
    extraAsked f y s = extraWidth f y := if_neg fun ⟨hf, hy, hl⟩ => h hf hy hl

/-- A table is built exactly for a set that is not over-subscribed (R185, R186). -/
theorem buildDecodeTable_eq_some_iff {lens : List Nat} {T : DecodeTable} :
    buildDecodeTable lens = some T ↔ overSubscribed lens = false ∧ rawTable lens = T := by
  unfold buildDecodeTable
  split <;> simp_all

/-- The fetch of a symbol reads its code with the table and then its extra field (R98, R126). -/
theorem fetchSymbol_symbolBits {lens : List Nat} {f : Format} {y x : Nat} {i : Instr} {s : State} {rest : List Bool}
    (hlens : ∀ l ∈ lens, l ≤ 15) (hover : overSubscribed lens = false) (hy : lens.getD y 0 ≠ 0)
    (hx : x < 2 ^ extraWidth f y) (hasked : extraAsked f y s = extraWidth f y)
    (hdecode : decode ⟨f, y, x, []⟩ = .ok i) (hbits : unread s = symbolBits lens f y x ++ rest) :
    fetchSymbol f (rawTable lens) s = .element i (advance (symbolBits lens f y x).length s) := by
  have hcode : unread s = bitsMSB ((assignCanonicalCodes lens).getD y 0) (lens.getD y 0) ++
      (bitsLSB x (extraWidth f y) ++ rest) := by rw [hbits, symbolBits, List.append_assoc]
  have hextra : (unread s).drop (lens.getD y 0) = bitsLSB x (extraWidth f y) ++ rest := by
    rw [hcode, List.drop_left' (length_bitsMSB _ _)]
  have hsym : decodeSym (rawTable lens) (unread s) = .sym y (lens.getD y 0) := by
    rw [hcode, decodeSym_canonicalCode hlens hover hy]
  simp only [fetchSymbol, hsym, hasked, hextra, peekBits_bitsLSB_append, Nat.mod_eq_of_lt hx, hdecode,
    length_symbolBits]

/-- The field that holds given bits is those bits (R61). -/
theorem bitsLSB_ofBitsLSB (bits : List Bool) : bitsLSB (ofBitsLSB bits) bits.length = bits := by
  induction bits with
  | nil => rfl
  | cons b bs ih =>
    rw [List.length_cons, bitsLSB_succ, ofBitsLSB]
    have hrest : (b.toNat + 2 * ofBitsLSB bs) / 2 = ofBitsLSB bs := by
      have := Bool.toNat_lt b
      omega
    rw [hrest, ih, Nat.testBit_zero]
    cases b <;> simp [Nat.add_mod]

/-- The fetch of a header reads its three bits (R82, R231). -/
theorem fetchHeader_bitsLSB {i : Instr} {h : Nat} {s : State} {rest : List Bool} (hlt : h < 2 ^ 3)
    (hdecode : decode ⟨.blockHdr, h, 0, []⟩ = .ok i) (hbits : unread s = bitsLSB h 3 ++ rest) :
    fetchHeader s = .element i (advance 3 s) := by
  simp only [fetchHeader, hbits, peekBits_bitsLSB_append, Nat.mod_eq_of_lt hlt, hdecode]

/-- A header given bit by bit, the final flag first (R82, R231). -/
theorem fetchHeader_threeBits {final low high : Bool} {i : Instr} {s : State} {rest : List Bool}
    (hdecode : decode ⟨.blockHdr, ofBitsLSB [final, low, high], 0, []⟩ = .ok i)
    (hbits : unread s = final :: low :: high :: rest) : fetchHeader s = .element i (advance 3 s) :=
  fetchHeader_bitsLSB (ofBitsLSB_lt [final, low, high]) hdecode
    (hbits.trans (congrArg (· ++ rest) (bitsLSB_ofBitsLSB [final, low, high]).symm))

/-- Settles O5: a symbol by `DecodeSym` on its code, the read of its extra field and the decoding of both; a header by
the read and the decoding of its three bits. -/
theorem fetchReadsEncodedSymbol : Obligations.FetchReadsEncodedSymbol := by
  refine ⟨?_, ?_, ?_⟩
  · intro lens T i s rest hlens hT hwf hcmd hhdr hy hrep hbits
    obtain ⟨hover, rfl⟩ := buildDecodeTable_eq_some_iff.mp hT
    rw [streamBits_symbol hcmd hhdr] at hbits ⊢
    exact fetchSymbol_symbolBits hlens hover hy (encode_extra_lt hwf) (extraAsked_eq hrep)
      ((decode_without_chunk hcmd).trans (decode_encode hwf)) hbits
  · intro i s rest hwf hhdr hbits
    exact fetchHeader_bitsLSB (encode_code_lt_of_blockHdr hhdr)
      ((decode_without_extra hhdr).trans (decode_encode hwf)) hbits
  · intro final low high s rest hbits
    refine fetchHeader_threeBits ?_ hbits
    clear hbits
    revert final low high
    decide

end Sys2Proof.Machine

/-! PROOFS. The encoding tables (spec 30_encoding R81 to R100): decoding inverts encoding, what the decoder reads
encodes back, the rows of the length and distance symbols, the fixed codes. -/

namespace Sys2Proof.Machine

/-- Settles O1: row by row, the code falls in the row's range and the extra field fits. -/
theorem decodeInvertsEncode : Obligations.DecodeInvertsEncode := fun _ h => decode_encode h

/-- Settles O3: each word is the encoding of a well-formed instruction. -/
theorem writtenWordsDecode : Obligations.WrittenWordsDecode :=
  ⟨decode_encode (i := .cinit) rfl, decode_encode (i := .feed [0x4B, 0x04]) rfl,
    decode_encode (i := .cmdReserved80FF 0x9A) rfl, decode_encode (i := .blockFixed true) rfl,
    decode_encode (i := .lit000_127 0x61) rfl, decode_encode (i := .len274 7) rfl,
    decode_encode (i := .dist29 0x1FFF) rfl, decode_encode (i := .repz18 86) rfl⟩

/-! ## What the decoder reads encodes back -/

/-- How many codes a format has (R100). -/
def codeCount : Format → Nat
  | .cmd => 256
  | .blockHdr => 8
  | .litlenSym => 288
  | .distSym => 32
  | .clSym => 19

/-- An encoded instruction without what its code does not carry: an extra field where the symbol has no extra bits, a
chunk where the command is not FEED (R81, R88, R91, R93). -/
def normalForm (e : Encoded) : Encoded where
  format := e.format
  code := e.code
  extra := if extraWidth e.format e.code = 0 then 0 else e.extra
  chunk := if e.format = .cmd ∧ e.code = 4 then e.chunk else []

/-- The instruction is one that an encoding can carry, and its encoding is `e` but for what `e` does not carry. -/
def EncodesBack (e : Encoded) (i : Instr) : Prop := i.wellFormed = true ∧ encode i = normalForm e

/-- A field below a power of two that the width covers is held whole. -/
theorem toNat_ofNat_of_fits {w n x : Nat} (hx : x < 2 ^ n) (hn : n ≤ w) : (BitVec.ofNat w x).toNat = x :=
  Nat.mod_eq_of_lt (hx.trans_le (Nat.pow_le_pow_right (by decide) hn))

theorem toNat_ofNat_byte {n : Nat} (h : n ≤ 255) : (BitVec.ofNat 8 n).toNat = n :=
  toNat_ofNat_of_fits (n := 8) (Nat.lt_succ_of_le h) (le_refl 8)

theorem byteIn_ofNat {lo hi n : Nat} (hlo : lo ≤ n) (hhi : n ≤ hi) (hbyte : hi ≤ 255) :
    byteIn lo hi (.ofNat 8 n) = true := by
  simp only [byteIn, toNat_ofNat_byte (hhi.trans hbyte), decide_eq_true hlo, decide_eq_true hhi, Bool.and_self]

/-- A symbol with no extra bits carries nothing but its code. -/
theorem normalForm_of_width_zero {f : Format} {sym extra : Nat} {chunk : List Byte} (hf : f ≠ .cmd)
    (hw : extraWidth f sym = 0) : normalForm ⟨f, sym, extra, chunk⟩ = ⟨f, sym, 0, []⟩ := by
  simp [normalForm, hf, hw]

/-- An extra field that fits is carried: where the symbol has no extra bits, it is 0. -/
theorem normalForm_of_fits {f : Format} {sym extra : Nat} {chunk : List Byte} (hf : f ≠ .cmd)
    (hfit : extra < 2 ^ extraWidth f sym) : normalForm ⟨f, sym, extra, chunk⟩ = ⟨f, sym, extra, []⟩ := by
  by_cases hw : extraWidth f sym = 0
  · rw [hw, Nat.pow_zero, Nat.lt_one_iff] at hfit
    rw [normalForm_of_width_zero hf hw, hfit]
  · simp [normalForm, hf, hw]

/-- A row of the reserved commands, whose operand is the code itself (R298). -/
theorem encodesBack_reserved {row : Byte → Instr} {lo hi code extra : Nat} {chunk : List Byte}
    (hwf : ∀ b, (row b).wellFormed = byteIn lo hi b) (henc : ∀ b, encode (row b) = ⟨.cmd, b.toNat, 0, []⟩)
    (hfour : code ≠ 4) (hlo : lo ≤ code) (hhi : code ≤ hi) (hbyte : hi ≤ 255) :
    EncodesBack ⟨.cmd, code, extra, chunk⟩ (row (.ofNat 8 code)) := by
  refine ⟨(hwf _).trans (byteIn_ofNat hlo hhi hbyte), ?_⟩
  rw [henc, toNat_ofNat_byte (hhi.trans hbyte)]
  simp [normalForm, extraWidth, hfour]

/-- A row of the literals, whose operand is the symbol itself (R90). -/
theorem encodesBack_literal {row : Byte → Instr} {lo hi sym extra : Nat} {chunk : List Byte}
    (hwf : ∀ b, (row b).wellFormed = byteIn lo hi b) (henc : ∀ b, encode (row b) = ⟨.litlenSym, b.toNat, 0, []⟩)
    (hlo : lo ≤ sym) (hhi : sym ≤ hi) (hbyte : hi ≤ 255) :
    EncodesBack ⟨.litlenSym, sym, extra, chunk⟩ (row (.ofNat 8 sym)) := by
  refine ⟨(hwf _).trans (byteIn_ofNat hlo hhi hbyte), ?_⟩
  have hw : extraWidth .litlenSym sym = 0 := if_neg (by omega)
  rw [henc, toNat_ofNat_byte (hhi.trans hbyte), normalForm_of_width_zero (by decide) hw]

theorem decodeCmd_encodesBack {code extra : Nat} {chunk : List Byte} {i : Instr}
    (h : decodeCmd code chunk = .ok i) : EncodesBack ⟨.cmd, code, extra, chunk⟩ i := by
  unfold decodeCmd at h
  iterate 8
    rcases ite_eq_iff.mp h with ⟨rfl, hi⟩ | ⟨_, h⟩
    · cases hi; exact ⟨rfl, rfl⟩
  iterate 5
    rcases ite_eq_iff.mp h with ⟨hle, hi⟩ | ⟨_, h⟩
    · cases hi
      exact encodesBack_reserved (fun _ => rfl) (fun _ => rfl) (by omega) (by omega) hle (by decide)
  cases h

/-- The header value is its final flag and its block type (R82). -/
theorem hdrCode_testBit {h btype : Nat} (hb : h / 2 = btype) : hdrCode (h.testBit 0) btype = h := by
  have hbit : (h.testBit 0).toNat = h % 2 := by
    rw [Nat.testBit_zero]
    rcases Nat.mod_two_eq_zero_or_one h with hm | hm <;> simp [hm]
  rw [hdrCode, hbit]
  omega

theorem decodeHdr_encodesBack {h extra : Nat} {chunk : List Byte} {i : Instr} (hd : decodeHdr h = .ok i) :
    EncodesBack ⟨.blockHdr, h, extra, chunk⟩ i := by
  unfold decodeHdr at hd
  iterate 4
    rcases ite_eq_iff.mp hd with ⟨hb, hi⟩ | ⟨-, hd⟩
    · cases hi
      exact ⟨rfl, congrArg (Encoded.mk .blockHdr · 0 []) (hdrCode_testBit hb)⟩
  cases hd

/-- What the row of a length symbol is (R91). -/
theorem lenRow_eq {row : BitVec 5 → Instr} {k : Nat} (hrow : lenRows[k]? = some row) (x : BitVec 5) :
    (row x).wellFormed = lenExtraFits k x ∧ encode (row x) = ⟨.litlenSym, 257 + k, x.toNat, []⟩ ∧
      ∀ s, exec (row x) s = .next (matchLengthHalf k x s) := by
  have hk : k < 29 := (List.getElem?_eq_some_iff.mp hrow).1
  interval_cases k <;> (cases hrow; exact ⟨rfl, rfl, fun _ => rfl⟩)

/-- What the row of a distance symbol is (R93). -/
theorem distRow_eq {row : BitVec 13 → Instr} {j : Nat} (hrow : distRows[j]? = some row) (x : BitVec 13) :
    (row x).wellFormed = distExtraFits j x ∧ encode (row x) = ⟨.distSym, j, x.toNat, []⟩ ∧
      ∀ s, exec (row x) s = matchDistanceHalf j x s := by
  have hj : j < 30 := (List.getElem?_eq_some_iff.mp hrow).1
  interval_cases j <;> (cases hrow; exact ⟨rfl, rfl, fun _ => rfl⟩)

theorem getD_le_of_forall_le {l : List Nat} {m : Nat} (h : ∀ x ∈ l, x ≤ m) (k : Nat) : l.getD k 0 ≤ m := by
  by_cases hk : k < l.length
  · rw [List.getD_eq_getElem _ _ hk]
    exact h _ (List.getElem_mem _)
  · rw [List.getD_eq_default _ _ (Nat.le_of_not_lt hk)]
    exact Nat.zero_le m

theorem decodeLitLen_encodesBack {sym extra : Nat} {chunk : List Byte} {i : Instr}
    (h : decodeLitLen sym extra = .ok i) : EncodesBack ⟨.litlenSym, sym, extra, chunk⟩ i := by
  unfold decodeLitLen at h
  iterate 5
    rcases ite_eq_iff.mp h with ⟨hle, hi⟩ | ⟨_, h⟩
    · cases hi
      exact encodesBack_literal (fun _ => rfl) (fun _ => rfl) (by omega) hle (by decide)
  rcases ite_eq_iff.mp h with ⟨rfl, hi⟩ | ⟨_, h⟩
  · cases hi; exact ⟨rfl, rfl⟩
  rcases ite_eq_iff.mp h with ⟨hinvalid, hi⟩ | ⟨_, h⟩
  · cases hi
    rcases hinvalid with rfl | rfl <;>
      exact ⟨rfl, by rw [normalForm_of_width_zero (by decide) (by decide)]; decide⟩
  split at h
  · cases h
  · next row hrow =>
    rcases ite_eq_iff.mp h with ⟨hfit, hi⟩ | ⟨-, h⟩
    · cases hi
      obtain ⟨hwf, henc, -⟩ := lenRow_eq hrow (.ofNat 5 extra)
      have hx := toNat_ofNat_of_fits hfit (getD_le_of_forall_le (m := 5) (by decide) _)
      have hsym : 257 + (sym - 257) = sym := by omega
      have hw : extraWidth .litlenSym sym = lenExtra.getD (sym - 257) 0 := if_pos (by omega)
      refine ⟨by rw [hwf, lenExtraFits, hx, decide_eq_true hfit], ?_⟩
      rw [henc, hx, hsym, normalForm_of_fits (by decide) (by rwa [hw])]
    · cases h

theorem decodeDist_encodesBack {sym extra : Nat} {chunk : List Byte} {i : Instr}
    (h : decodeDist sym extra = .ok i) : EncodesBack ⟨.distSym, sym, extra, chunk⟩ i := by
  unfold decodeDist at h
  rcases ite_eq_iff.mp h with ⟨hinvalid, hi⟩ | ⟨-, h⟩
  · cases hi
    rcases hinvalid with rfl | rfl <;>
      exact ⟨rfl, by rw [normalForm_of_width_zero (by decide) (by decide)]; decide⟩
  split at h
  · cases h
  · next row hrow =>
    rcases ite_eq_iff.mp h with ⟨hfit, hi⟩ | ⟨-, h⟩
    · cases hi
      obtain ⟨hwf, henc, -⟩ := distRow_eq hrow (.ofNat 13 extra)
      have hx := toNat_ofNat_of_fits hfit (getD_le_of_forall_le (m := 13) (by decide) _)
      refine ⟨by rw [hwf, distExtraFits, hx, decide_eq_true hfit], ?_⟩
      rw [henc, hx, normalForm_of_fits (by decide) hfit]
    · cases h

theorem decodeCl_encodesBack {sym extra : Nat} {chunk : List Byte} {i : Instr}
    (h : decodeCl sym extra = .ok i) : EncodesBack ⟨.clSym, sym, extra, chunk⟩ i := by
  unfold decodeCl at h
  rcases ite_eq_iff.mp h with ⟨hle, hi⟩ | ⟨hgt, h⟩
  · cases hi
    have hw : extraWidth .clSym sym = 0 := by simp only [extraWidth, clExtra]; split_ifs <;> omega
    have hx : (BitVec.ofNat 4 sym).toNat = sym := toNat_ofNat_of_fits (Nat.lt_succ_of_le hle) (le_refl 4)
    refine ⟨rfl, ?_⟩
    rw [encode, hx, normalForm_of_width_zero (by decide) hw]
  rcases ite_eq_iff.mp h with ⟨hle, h⟩ | ⟨-, h⟩
  · rcases ite_eq_iff.mp h with ⟨hfit, h⟩ | ⟨-, h⟩
    · rcases (by omega : sym = 16 ∨ sym = 17 ∨ sym = 18) with rfl | rfl | rfl
      all_goals
        cases h
        exact ⟨rfl, (congrArg (Encoded.mk .clSym _ · []) (toNat_ofNat_of_fits hfit (le_refl _))).trans
          (normalForm_of_fits (by decide) hfit).symm⟩
    · cases h
  · cases h

/-- What the decoder reads in any format encodes back (R97, R100). -/
theorem decode_encodesBack {e : Encoded} {i : Instr} (h : decode e = .ok i) : EncodesBack e i := by
  obtain ⟨f, code, extra, chunk⟩ := e
  cases f with
  | cmd => exact decodeCmd_encodesBack h
  | blockHdr => exact decodeHdr_encodesBack h
  | litlenSym => exact decodeLitLen_encodesBack h
  | distSym => exact decodeDist_encodesBack h
  | clSym => exact decodeCl_encodesBack h

/-- The code of an encoding is one of its format's codes (R100). -/
theorem encode_code_lt (i : Instr) : (encode i).code < codeCount (encode i).format := by
  cases i with
  | cmdReserved080F b | cmdReserved101F b | cmdReserved203F b | cmdReserved407F b | cmdReserved80FF b => exact b.isLt
  | blockStored final | blockFixed final | blockDynamic final | blockReserved final => cases final <;> decide
  | lit000_127 b | lit128_143 b | lit144_159 b | lit160_191 b | lit192_255 b =>
    exact b.isLt.trans (by decide : 256 < 288)
  | litlenInvalid286_287 low | distInvalid30_31 low => exact Nat.add_lt_add_left low.isLt _
  | cl len => exact len.isLt.trans (by decide : 16 < 19)
  | _ => simp [encode, codeCount]

/-- Every code of a format is an instruction, all extra bits 0 (R100). -/
theorem decode_ok_of_lt_codeCount {f : Format} {code : Nat} (h : code < codeCount f) :
    ∃ i, decode ⟨f, code, 0, []⟩ = .ok i := by
  cases f with
  | cmd => exact decodeCmd_ok h []
  | blockHdr | litlenSym | distSym | clSym => exact decode_ok_of_lt h (Nat.two_pow_pos _)

/-- Exactly the codes of a format decode (R100). -/
theorem decode_ok_iff (f : Format) (code : Nat) :
    (∃ i, decode ⟨f, code, 0, []⟩ = .ok i) ↔ code < codeCount f := by
  refine ⟨fun ⟨i, hi⟩ => ?_, decode_ok_of_lt_codeCount⟩
  have hlt := encode_code_lt i
  rwa [(decode_encodesBack hi).2] at hlt

/-- Settles O2: the decoder reads every code of the format, and what it reads encodes to the normal form of what was
read, whose extra field fits as every well-formed instruction's does. -/
theorem everyCodePointDecodes : Obligations.EveryCodePointDecodes := by
  intro f
  refine ⟨fun code => (decode_ok_iff f code).trans (by cases f <;> rfl), fun code extra chunk i hi => ?_⟩
  obtain ⟨hwf, henc⟩ := decode_encodesBack hi
  have hfit := encode_extra_lt hwf
  rw [henc] at hfit ⊢
  refine ⟨hwf, rfl, rfl, fun hw => ?_, fun hf hc => if_pos ⟨hf, hc⟩⟩
  have hcarried : (normalForm ⟨f, code, extra, chunk⟩).extra = extra := if_neg hw
  rw [hcarried] at hfit ⊢
  exact ⟨rfl, hfit⟩

end Sys2Proof.Machine

/-! PROOFS. A command that the host writes, and the length half of a match symbol by symbol (spec 30_encoding R81, R91,
R96, 45_inflate R258, 47_commands R290). -/

namespace Sys2Proof.Machine

/-! ## A write to `CMD` -/

/-- A step whose next access is a command executes it (R290). -/
theorem step_of_command {a : HostAccess} {rest : List HostAccess} {s : State} {i : Instr}
    (hq : s.hostq = a :: rest) (ha : accessEffect a { s with hostq := rest } = .command i) :
    step s = exec i { s with hostq := rest } := by
  simp only [step, hq, accessStep, ha]

theorem accessEffect_write_cmd {v : Word32} {chunk : List Byte} {i : Instr}
    (hi : decode ⟨.cmd, v.toNat % 256, 0, chunk⟩ = .ok i) (s : State) :
    accessEffect (.write 0 v chunk) s = .command i := by
  simp only [accessEffect, fetchCommand, ↓reduceIte, Nat.reducePow, hi]

/-- Settles O44: every byte is a command code, and the step executes what it decodes to. -/
theorem stepRunsWrittenCommand : Obligations.StepRunsWrittenCommand := by
  intro v chunk rest s hq
  exact ⟨decodeCmd_ok (Nat.mod_lt _ (by decide)) chunk, fun i hi => step_of_command hq (accessEffect_write_cmd hi _)⟩

/-! ## The symbols with an extra field -/

/-- Each length symbol with its extra field, and its base (R91). -/
def lengthSymbols (x : BitVec 5) : List (Instr × Nat) := lenRows.zipWith (fun row base => (row x, base)) lenBase

/-- Each distance symbol with its extra field, and its base (R93). -/
def distanceSymbols (x : BitVec 13) : List (Instr × Nat) := distRows.zipWith (fun row base => (row x, base)) distBase

theorem exec_of_mem_lengthSymbols {x : BitVec 5} {e : Instr × Nat} (he : e ∈ lengthSymbols x) (s : State) :
    exec e.1 s = .next { s with pendLen := some (e.2 + x.toNat) } := by
  obtain ⟨k, hk⟩ := List.mem_iff_getElem?.mp he
  obtain ⟨row, base, hrow, hbase, rfl⟩ := List.getElem?_zipWith_eq_some.mp hk
  obtain ⟨-, -, hexec⟩ := lenRow_eq hrow x
  rw [hexec, matchLengthHalf, lengthOf, List.getD_eq_getElem?_getD, hbase, Option.getD_some]

theorem exec_of_mem_distanceSymbols {x : BitVec 13} {e : Instr × Nat} {length : Nat} {s : State}
    (he : e ∈ distanceSymbols x) (hlen : s.pendLen = some length) :
    exec e.1 s = .next (copyMatch length (e.2 + x.toNat) s) := by
  obtain ⟨j, hj⟩ := List.mem_iff_getElem?.mp he
  obtain ⟨row, base, hrow, hbase, rfl⟩ := List.getElem?_zipWith_eq_some.mp hj
  obtain ⟨-, -, hexec⟩ := distRow_eq hrow x
  simp only [hexec, matchDistanceHalf, hlen, distanceOf, List.getD_eq_getElem?_getD, hbase, Option.getD_some]

theorem base_pos_of_mem_distanceSymbols {x : BitVec 13} {e : Instr × Nat} (he : e ∈ distanceSymbols x) : 1 ≤ e.2 := by
  obtain ⟨j, hj⟩ := List.mem_iff_getElem?.mp he
  obtain ⟨row, base, -, hbase, rfl⟩ := List.getElem?_zipWith_eq_some.mp hj
  exact (by decide : ∀ b ∈ distBase, 1 ≤ b) base (List.mem_of_getElem? hbase)

/-- Settles O29: each row has the base of its place in the table. -/
theorem lengthSymbolsFormLength : Obligations.LengthSymbolsFormLength :=
  fun x s e he => exec_of_mem_lengthSymbols (show e ∈ lengthSymbols x from he) s

end Sys2Proof.Machine

/-! PROOFS. The fixed codes (spec 30_encoding R94, R95, 43_huffman R175, R177). -/

namespace Sys2Proof.Machine

/-- Symbols in a run of equal lengths have that length, and their rank counts on from the symbols before the run. -/
theorem getD_codeRank_of_run {before after : List Nat} {n l r : Nat} (hr : r < n) :
    (before ++ (List.replicate n l ++ after)).getD (before.length + r) 0 = l ∧
      codeRank (before ++ (List.replicate n l ++ after)) (before.length + r) = before.count l + r := by
  have hlen : (before ++ (List.replicate n l ++ after)).getD (before.length + r) 0 = l := by
    rw [List.getD_append_right _ _ _ _ (Nat.le_add_right _ _), Nat.add_sub_cancel_left,
      List.getD_append _ _ _ _ (by simpa using hr), List.getD_replicate _ hr]
  refine ⟨hlen, ?_⟩
  rw [codeRank, hlen, List.take_length_add_append, List.count_append,
    List.take_append_of_le_length (by simpa using hr.le), List.take_replicate, List.count_replicate_self,
    Nat.min_eq_left hr.le]

/-- The length and the code of the symbols in a run of equal lengths: the first code of the length, then the symbols
of that length before the run, then those of the run (R175). -/
theorem code_of_run {lens before after : List Nat} {n k y first start earlier : Nat}
    (hlens : lens = before ++ (List.replicate n (k + 1) ++ after)) (hk : k < 15)
    (hfirst : (firstCodes 0 0 (lenCounts 15 lens)).getD k 0 = first) (hstart : before.length = start)
    (hearlier : before.count (k + 1) = earlier) (hlo : start ≤ y) (hhi : y < start + n) :
    lens.getD y 0 = k + 1 ∧ (assignCanonicalCodes lens).getD y 0 = first + earlier + (y - start) := by
  obtain ⟨r, rfl⟩ := Nat.exists_eq_add_of_le hlo
  obtain ⟨hlen, hrank⟩ := getD_codeRank_of_run (before := before) (after := after) (l := k + 1)
    (Nat.lt_of_add_lt_add_left hhi)
  rw [← hlens, hstart] at hlen hrank
  refine ⟨hlen, ?_⟩
  rw [assignCanonicalCodes_getD hlen hk, hrank, hfirst, hearlier, Nat.add_sub_cancel_left, Nat.add_assoc]

theorem lenCounts_fixedLitLens : lenCounts 15 fixedLitLens = [0, 0, 0, 0, 0, 0, 24, 152, 112, 0, 0, 0, 0, 0, 0] := by
  simp [-List.reduceReplicate, lenCounts, lenCount, fixedLitLens, List.range_succ, List.countP_replicate]

theorem lenCounts_fixedDistLens : lenCounts 15 fixedDistLens = [0, 0, 0, 0, 32, 0, 0, 0, 0, 0, 0, 0, 0, 0, 0] := by
  simp [-List.reduceReplicate, lenCounts, lenCount, fixedDistLens, List.range_succ, List.countP_replicate]

/-- The first codes of the fixed literal/length code: 0 for 7 bits, `0x30` for 8, `0x190` for 9 (R94). -/
theorem firstCodes_fixedLitLens :
    (firstCodes 0 0 (lenCounts 15 fixedLitLens)).getD 6 0 = 0 ∧
      (firstCodes 0 0 (lenCounts 15 fixedLitLens)).getD 7 0 = 0x30 ∧
      (firstCodes 0 0 (lenCounts 15 fixedLitLens)).getD 8 0 = 0x190 := by
  rw [lenCounts_fixedLitLens]
  decide

/-- The fixed literal/length code, run by run (R94). -/
theorem fixedLit_code {y : Nat} (hy : y < 288) :
    fixedLitLens.getD y 0 = (if y ≤ 143 then 8 else if y ≤ 255 then 9 else if y ≤ 279 then 7 else 8) ∧
      (assignCanonicalCodes fixedLitLens).getD y 0 =
        (if y ≤ 143 then 0x30 + y else if y ≤ 255 then 0x190 + (y - 144)
         else if y ≤ 279 then y - 256 else 0xC0 + (y - 280)) := by
  obtain ⟨hseven, height, hnine⟩ := firstCodes_fixedLitLens
  have hruns : fixedLitLens = [] ++ (List.replicate 144 8 ++ (List.replicate 112 9 ++ (List.replicate 24 7 ++
      (List.replicate 8 8 ++ [])))) := by
    simp only [fixedLitLens, List.append_assoc, List.nil_append, List.append_nil]
  split_ifs with h143 h255 h279
  · obtain ⟨hlen, hcode⟩ := code_of_run (k := 7) hruns (by decide) height List.length_nil List.count_nil (Nat.zero_le y)
      (by omega)
    exact ⟨hlen, by omega⟩
  · rw [← List.append_assoc] at hruns
    obtain ⟨hlen, hcode⟩ := code_of_run (y := y) (k := 8) (start := 144) (earlier := 0) hruns (by decide) hnine
      (by simp [-List.reduceReplicate]) (by simp [-List.reduceReplicate, List.count_replicate]) (by omega) (by omega)
    exact ⟨hlen, by omega⟩
  · rw [← List.append_assoc, ← List.append_assoc] at hruns
    obtain ⟨hlen, hcode⟩ := code_of_run (y := y) (k := 6) (start := 256) (earlier := 0) hruns (by decide) hseven
      (by simp [-List.reduceReplicate]) (by simp [-List.reduceReplicate, List.count_replicate]) (by omega) (by omega)
    exact ⟨hlen, by omega⟩
  · rw [← List.append_assoc, ← List.append_assoc, ← List.append_assoc] at hruns
    obtain ⟨hlen, hcode⟩ := code_of_run (y := y) (k := 7) (start := 280) (earlier := 144) hruns (by decide) height
      (by simp [-List.reduceReplicate]) (by simp [-List.reduceReplicate, List.count_replicate]) (by omega) (by omega)
    exact ⟨hlen, by omega⟩

/-- The fixed distance code is one run of five bits (R95). -/
theorem fixedDist_code {j : Nat} (hj : j < 32) :
    fixedDistLens.getD j 0 = 5 ∧ (assignCanonicalCodes fixedDistLens).getD j 0 = j := by
  have hfirst : (firstCodes 0 0 (lenCounts 15 fixedDistLens)).getD 4 0 = 0 := by
    rw [lenCounts_fixedDistLens]
    decide
  have hrun : fixedDistLens = [] ++ (List.replicate 32 5 ++ []) := (List.append_nil _).symm
  obtain ⟨hlen, hcode⟩ := code_of_run (k := 4) hrun (by decide) hfirst List.length_nil List.count_nil (Nat.zero_le j)
    (by omega)
  exact ⟨hlen, by omega⟩

/-- Settles O4: each range of the tables is a run of equal lengths, whose codes count up from the first one. -/
theorem fixedCodesOfTheFormat : Obligations.FixedCodesOfTheFormat :=
  ⟨by simp only [fixedLitLens, List.length_append, List.length_replicate], List.length_replicate,
    fun _ => fixedLit_code, fun _ => fixedDist_code⟩

end Sys2Proof.Machine

/-! PROOFS. The window after a run of appended bytes, the copy as an append of repeated history, and the distance half
of a match symbol by symbol (spec 30_encoding R93, R96, 41_window R140 to R142, 45_inflate R258). -/

namespace Sys2Proof.Machine

/-! ## Ring addresses -/

/-- Two offsets less than a whole ring apart have different ring addresses (R62). -/
theorem ring_ne {w base i j : Nat} (hlt : i < j) (hgap : j < i + w) : (base + i) % w ≠ (base + j) % w := by
  intro h
  have hmod : i ≡ j [MOD w] := Nat.ModEq.add_left_cancel' base h
  have hdvd : w ∣ j - i := (Nat.modEq_iff_dvd' hlt.le).mp hmod
  have hle := Nat.le_of_dvd (by omega) hdvd
  omega

/-! ## A run of appended bytes -/

theorem windowAppendAll_concat (bs : List Byte) (b : Byte) (s : State) :
    windowAppendAll (bs ++ [b]) s = windowAppend b (windowAppendAll bs s) := by
  rw [windowAppendAll_append, windowAppendAll_cons, windowAppendAll_nil]

@[simp] theorem windowAppendAll_params (bs : List Byte) (s : State) : (windowAppendAll bs s).params = s.params := by
  rw [windowAppendAll_frame bs s]

@[simp] theorem windowAppendAll_mode (bs : List Byte) (s : State) : (windowAppendAll bs s).mode = s.mode := by
  rw [windowAppendAll_frame bs s]

theorem windowAppendAll_wpos (bs : List Byte) {s : State} (h : s.wpos < wsize s.params) :
    (windowAppendAll bs s).wpos = (s.wpos + bs.length) % wsize s.params := by
  induction bs using List.reverseRecOn with
  | nil => exact (Nat.mod_eq_of_lt h).symm
  | append_singleton bs b ih =>
    rw [windowAppendAll_concat, windowAppend_wpos, windowAppendAll_params, ih, Nat.mod_add_mod, List.length_append,
      List.length_singleton, Nat.add_assoc]

theorem windowAppendAll_whave (bs : List Byte) {s : State} (h : s.whave ≤ wsize s.params) :
    (windowAppendAll bs s).whave = min (s.whave + bs.length) (wsize s.params) := by
  induction bs using List.reverseRecOn with
  | nil => exact (Nat.min_eq_left h).symm
  | append_singleton bs b ih =>
    rw [windowAppendAll_concat, windowAppend_whave, windowAppendAll_params, ih, List.length_append,
      List.length_singleton]
    omega

theorem windowAppendAll_sums (bs : List Byte) (s : State) :
    ((windowAppendAll bs s).s1.toNat, (windowAppendAll bs s).s2.toNat) = adlerSums bs (s.s1.toNat, s.s2.toNat) := by
  induction bs generalizing s with
  | nil => rfl
  | cons b bs ih =>
    have hsum (n : Nat) : (BitVec.ofNat 16 (n % adlerBase)).toNat = n % adlerBase :=
      Nat.mod_eq_of_lt ((Nat.mod_lt n (by decide)).trans (by decide : adlerBase < 2 ^ 16))
    rw [windowAppendAll_cons, ih, windowAppend_s1, windowAppend_s2, hsum, hsum]
    rfl

theorem windowAppendAll_sorted (bs : List Byte) {s : State} (h : SparseSorted s.win) :
    SparseSorted (windowAppendAll bs s).win := by
  induction bs generalizing s with
  | nil => exact h
  | cons b bs ih => exact ih (by rw [windowAppend_win]; exact sparseWrite_sorted _ _ h)

/-- A ring address that no appended byte goes to reads as before (R140). -/
theorem windowAppendAll_read_other {bs : List Byte} {s : State} {a : Nat} (hpos : s.wpos < wsize s.params)
    (ha : ∀ k < bs.length, (s.wpos + k) % wsize s.params ≠ a) :
    winRead (windowAppendAll bs s).win a = winRead s.win a := by
  induction bs using List.reverseRecOn with
  | nil => rfl
  | append_singleton bs b ih =>
    simp only [List.length_append, List.length_singleton] at ha
    rw [windowAppendAll_concat, windowAppend_win, windowAppendAll_wpos bs hpos,
      winRead_winWrite_ne _ (ha bs.length (by omega)).symm, ih fun k hk => ha k (by omega)]

/-- An appended byte stands at its ring address until a later one overwrites it (R140, R141). -/
theorem windowAppendAll_read {bs : List Byte} {s : State} {k : Nat} {b : Byte} (hsorted : SparseSorted s.win)
    (hpos : s.wpos < wsize s.params) (hk : bs[k]? = some b) (hlast : bs.length ≤ k + wsize s.params) :
    winRead (windowAppendAll bs s).win ((s.wpos + k) % wsize s.params) = b := by
  induction bs using List.reverseRecOn with
  | nil => cases hk
  | append_singleton bs c ih =>
    rw [List.length_append, List.length_singleton] at hlast
    rw [windowAppendAll_concat, windowAppend_win, windowAppendAll_wpos bs hpos]
    rcases Nat.lt_trichotomy k bs.length with hlt | rfl | hgt
    · rw [List.getElem?_append_left hlt] at hk
      rw [winRead_winWrite_ne _ (ring_ne hlt (by omega)), ih hk (by omega)]
    · rw [winRead_winWrite_same _ _ (windowAppendAll_sorted bs hsorted)]
      simpa [eq_comm] using hk
    · have hout : (bs ++ [c])[k]? = none := List.getElem?_eq_none (by simpa using hgt)
      rw [hout] at hk
      cases hk

/-- The window and the checksum after a run of appended bytes (R140, R141). -/
theorem windowAppendAll_windowHolds (bs : List Byte) {s : State} (hsorted : SparseSorted s.win)
    (hpos : s.wpos < wsize s.params) (hhave : s.whave ≤ wsize s.params) :
    WindowHolds bs s (windowAppendAll bs s) :=
  ⟨windowAppendAll_wpos bs hpos, windowAppendAll_whave bs hhave, windowAppendAll_wtotal bs s,
    windowAppendAll_sums bs s, fun _ _ => windowAppendAll_read hsorted hpos,
    fun _ => windowAppendAll_read_other hpos⟩

/-- In decompress mode the appended bytes are produced (R140). -/
theorem windowAppendAll_output (bs : List Byte) {s : State} (hm : s.mode = .decompress) :
    (windowAppendAll bs s).out = s.out ++ bs ∧ (windowAppendAll bs s).totalOut = s.totalOut + bs.length := by
  induction bs using List.reverseRecOn with
  | nil => exact ⟨(List.append_nil _).symm, rfl⟩
  | append_singleton bs b ih =>
    obtain ⟨hout, htotal⟩ := ih
    rw [windowAppendAll_concat, windowAppend_out, windowAppend_totalOut, windowAppendAll_mode, if_pos hm, if_pos hm,
      hout, htotal, List.append_assoc, List.length_append, List.length_singleton, Nat.add_assoc]
    exact ⟨rfl, rfl⟩

/-! ## The copy -/

theorem windowCopy_succ (distance n : Nat) (s : State) :
    windowCopy distance (n + 1) s = copyByte distance (windowCopy distance n s) := by
  induction n generalizing s with
  | zero => rfl
  | succ n ih => rw [windowCopy, ih]; rfl

/-- The first `n` bytes of a copy (R142). -/
def copiedBytes (s : State) (distance n : Nat) : List Byte := (List.range n).map (copiedByte s distance)

@[simp] theorem length_copiedBytes (s : State) (distance n : Nat) : (copiedBytes s distance n).length = n := by
  simp [copiedBytes]

theorem copiedBytes_getElem? {s : State} {distance n k : Nat} (hk : k < n) :
    (copiedBytes s distance n)[k]? = some (copiedByte s distance k) := by
  simp [copiedBytes, hk]

theorem copiedBytes_succ (s : State) (distance n : Nat) :
    copiedBytes s distance (n + 1) = copiedBytes s distance n ++ [copiedByte s distance n] := by
  simp [copiedBytes, List.range_succ]

/-- The source of the next byte, counted from the position before the copy (R142). -/
theorem copySource_eq {distance n : Nat} {s t : State} (hle : distance ≤ wsize s.params) (hp : t.params = s.params)
    (hpos : t.wpos = (s.wpos + n) % wsize s.params) :
    copySource distance t = (s.wpos + (n + wsize s.params - distance)) % wsize s.params := by
  rw [copySource, hp, hpos]
  rcases Nat.eq_or_lt_of_le hle with rfl | hlt
  · rw [Nat.mod_self, Nat.sub_zero, Nat.add_mod_right, Nat.mod_mod, Nat.add_sub_cancel]
  · rw [Nat.mod_eq_of_lt hlt, Nat.add_sub_assoc hle, Nat.mod_add_mod, Nat.add_sub_assoc hle, Nat.add_assoc]

/-- After `n` bytes of the copy, the byte `distance` before the end is the next one: a byte of the history while
`n < distance`, then a byte that the copy itself has written (R142). -/
theorem read_copySource {distance n : Nat} {s : State} (hd : 1 ≤ distance) (hle : distance ≤ wsize s.params)
    (hsorted : SparseSorted s.win) (hpos : s.wpos < wsize s.params) :
    winRead (windowAppendAll (copiedBytes s distance n) s).win
      (copySource distance (windowAppendAll (copiedBytes s distance n) s)) = copiedByte s distance n := by
  have hsource := copySource_eq (n := n) hle (windowAppendAll_params (copiedBytes s distance n) s)
    (by rw [windowAppendAll_wpos _ hpos, length_copiedBytes])
  rw [hsource]
  rcases Nat.lt_or_ge n distance with hlt | hge
  · rw [windowAppendAll_read_other hpos]
    · rw [copiedByte, Nat.mod_eq_of_lt hlt]
      congr 2
      omega
    · intro k hk
      rw [length_copiedBytes] at hk
      exact ring_ne (by omega) (by omega)
  · have hback : (s.wpos + (n + wsize s.params - distance)) % wsize s.params =
        (s.wpos + (n - distance)) % wsize s.params := by
      rw [show s.wpos + (n + wsize s.params - distance) = s.wpos + (n - distance) + wsize s.params by omega,
        Nat.add_mod_right]
    rw [hback, windowAppendAll_read hsorted hpos (copiedBytes_getElem? (by omega))
      (by rw [length_copiedBytes]; omega), copiedByte, copiedByte, ← Nat.mod_eq_sub_mod hge]

/-- A copy appends the last `distance` bytes of the history, repeated periodically (R72, R142). -/
theorem windowCopy_eq_windowAppendAll {distance : Nat} (length : Nat) {s : State} (hd : 1 ≤ distance)
    (hle : distance ≤ wsize s.params) (hsorted : SparseSorted s.win) (hpos : s.wpos < wsize s.params) :
    windowCopy distance length s = windowAppendAll (copiedBytes s distance length) s := by
  induction length with
  | zero => rfl
  | succ n ih =>
    rw [windowCopy_succ, ih, copyByte, read_copySource hd hle hsorted hpos, copiedBytes_succ, windowAppendAll_concat]

/-! ## The distance half of a match -/

/-- A match within the history and the cap is copied (R258). -/
theorem copyMatch_of_fits {length distance : Nat} {s : State} (hhave : distance ≤ s.whave)
    (hcap : s.totalOut + length ≤ s.outLimit.toNat) :
    copyMatch length distance s = windowCopy distance length (commit s) := by
  have hunder : overLimit length s = false := decide_eq_false (by omega)
  simp [copyMatch, Nat.not_lt.mpr hhave, hunder]

/-- Settles O30: each row copies at the base of its place in the table plus the extra value, and the copy appends the
repeated history. -/
theorem distanceSymbolsCopyMatch : Obligations.DistanceSymbolsCopyMatch := by
  intro x length s hm hlen hsorted hpos hhave hcap e he hdist
  have hmem : e ∈ distanceSymbols x := he
  have hbase := base_pos_of_mem_distanceSymbols hmem
  have hcopy : windowCopy (e.2 + x.toNat) length (commit s) =
      windowAppendAll (copiedBytes s (e.2 + x.toNat) length) (commit s) :=
    windowCopy_eq_windowAppendAll (s := commit s) length (by omega) (hdist.trans hhave) hsorted hpos
  obtain ⟨hout, htotal⟩ := windowAppendAll_output (s := commit s) (copiedBytes s (e.2 + x.toNat) length) hm
  rw [length_copiedBytes] at htotal
  refine ⟨_, exec_of_mem_distanceSymbols hmem hlen, ?_⟩
  rw [copyMatch_of_fits hdist hcap, hcopy]
  exact ⟨windowAppendAll_windowHolds (s := commit s) _ hsorted hpos hhave, hout, htotal, windowAppendAll_frame _ _⟩

end Sys2Proof.Machine

/-! PROOFS. Bit I/O (spec 40_bitio R120, R122, R126, R128): what the output bit stream holds after bits are appended,
and when a step of the decoder holds or meets an unassigned code. -/

namespace Sys2Proof.Machine

/-! ## The bits of the output stream -/

/-- The last stream bit of a field is its highest bit (R61). -/
theorem bitsLSB_succ_last (v n : Nat) : bitsLSB v (n + 1) = bitsLSB v n ++ [v.testBit n] := by
  simp [bitsLSB, List.range_succ]

theorem bitsLSB_zero_left (n : Nat) : bitsLSB 0 n = List.replicate n false := by
  simp [bitsLSB, List.eq_replicate_iff]

/-- `OACC[ONB] <- bit` puts the bit behind those already there (R120). -/
theorem bitsLSB_setBit (acc : BitVec 8) {n : Nat} (hn : n < 8) (bit : Bool) :
    bitsLSB ((acc &&& ~~~(1#8 <<< n)) ||| (BitVec.ofBool bit).setWidth 8 <<< n).toNat (n + 1) =
      bitsLSB acc.toNat n ++ [bit] := by
  rw [bitsLSB_succ_last]
  congr 1
  · refine List.map_congr_left fun i hi => ?_
    have hlt : i < n := List.mem_range.mp hi
    rw [BitVec.testBit_toNat, BitVec.testBit_toNat]
    simp [-BitVec.getLsbD_eq_getElem, hlt, hlt.trans hn]
  · rw [BitVec.testBit_toNat]
    simp [-BitVec.getLsbD_eq_getElem, hn]

/-- What a sink has taken, first bit first (R8, R23). -/
def BitSink.bits (k : BitSink) : List Bool := bytesBits k.emitted ++ bitsLSB k.oacc.toNat k.onb.toNat

/-- One pass of the loop of `PutBits` appends its bit, whether it completes a byte or not (R120). -/
theorem sinkBit_bits (k : BitSink) (bit : Bool) : (sinkBit k bit).bits = k.bits ++ [bit] := by
  have hset := bitsLSB_setBit k.oacc k.onb.isLt bit
  rw [BitSink.bits, BitSink.bits, List.append_assoc, ← hset, sinkBit]
  split
  · next h7 =>
    rw [bytesBits_append, List.append_assoc, h7]
    simp [bytesBits, byteBits, bitsLSB]
  · next h7 =>
    have hne : k.onb.toNat ≠ 7 := fun he => h7 (BitVec.eq_of_toNat_eq he)
    have hsucc : (k.onb + 1).toNat = k.onb.toNat + 1 := by
      have := k.onb.isLt
      exact Nat.mod_eq_of_lt (show k.onb.toNat + 1 < 2 ^ 3 by omega)
    rw [hsucc]

theorem sinkBit_foldl_bits (bits : List Bool) (k : BitSink) : (bits.foldl sinkBit k).bits = k.bits ++ bits := by
  induction bits generalizing k with
  | nil => exact (List.append_nil _).symm
  | cons b bs ih => rw [List.foldl_cons, ih, sinkBit_bits, List.append_assoc, List.singleton_append]

/-- Appended bits stand at the end of the output bit stream, in list order (R120). -/
theorem outBits_putBitList (bits : List Bool) (s : State) : outBits (putBitList bits s) = outBits s ++ bits := by
  have hsink := sinkBit_foldl_bits bits ⟨s.oacc, s.onb, []⟩
  simp only [BitSink.bits] at hsink
  rw [outBits, putBitList_out, putBitList_oacc, putBitList_onb, bytesBits_append, List.append_assoc, hsink]
  simp [outBits, bytesBits]

/-- The output registers stay true whatever the mode (R23). -/
theorem putBitList_sinkInv (bits : List Bool) {s : State} (h : s.SinkInv) : (putBitList bits s).SinkInv := by
  obtain ⟨hpos, hacc⟩ := h
  obtain ⟨hclean, htaken⟩ := sinkBit_foldl_clean bits (k := ⟨s.oacc, s.onb, []⟩) hacc
  have hlt := (bits.foldl sinkBit ⟨s.oacc, s.onb, []⟩).onb.isLt
  simp only [BitSink.taken, List.length_nil] at htaken
  refine ⟨?_, hclean⟩
  rw [putBitList_bitposOut, putBitList_onb]
  omega

/-- Settles O9: each pass of the loop appends one bit to the sink, so the bits of the field follow the stream's. -/
theorem putBitsAppends : Obligations.PutBitsAppends := fun v n s =>
  ⟨outBits_putBitList _ s, congrArg (s.bitposOut + ·) (length_bitsLSB v n), putBitList_out_prefix _ s,
    putBitList_totalOut_balance _ s, putBitList_frame _ s, putBitList_sinkInv _⟩

/-! ## `AlignOut` -/

/-- On a byte boundary `AlignOut` does nothing (R122). -/
theorem alignOut_of_aligned {s : State} (h : s.onb = 0) : alignOut s = s := by
  rw [alignOut, alignPad, if_pos h]
  exact putBitList_nil s

/-- The bits that `AlignOut` appends, counted by the position in the stream (R23, R122). -/
theorem alignPad_eq {s : State} (h : s.bitposOut % 8 = s.onb.toNat) :
    alignPad s = (8 - s.bitposOut % 8) % 8 := by
  rw [alignPad, h]
  split
  · next h0 => rw [h0]; rfl
  · next h0 =>
    have hne : s.onb.toNat ≠ 0 := fun he => h0 (BitVec.eq_of_toNat_eq he)
    omega

/-- With no bit of an incomplete byte in it, the accumulator is 0 (R23). -/
theorem State.SinkInv.aligned {s : State} (h : s.SinkInv) (hpos : s.bitposOut % 8 = 0) : s.onb = 0 ∧ s.oacc = 0 := by
  obtain ⟨honb, hacc⟩ := h
  have h0 : s.onb.toNat = 0 := honb.symm.trans hpos
  rw [h0] at hacc
  exact ⟨BitVec.eq_of_toNat_eq h0, BitVec.eq_of_toNat_eq (Nat.lt_one_iff.mp hacc)⟩

/-- Settles O10: the padding brings the position to a multiple of 8, where the sink invariant leaves the output
registers no value but 0. -/
theorem alignOutPadsWithZeros : Obligations.AlignOutPadsWithZeros := by
  intro s h
  have hpad := alignPad_eq h.1
  have hpos : (alignOut s).bitposOut % 8 = 0 := by
    rw [alignOut, putBits, putBitList_bitposOut, length_bitsLSB, hpad]
    omega
  have hinv : (alignOut s).SinkInv := putBitList_sinkInv _ h
  obtain ⟨honb, hacc⟩ := hinv.aligned hpos
  refine ⟨honb, hacc, hpos, ?_, alignOut_of_aligned, alignOut_frame s⟩
  rw [alignOut, putBits, outBits_putBitList, bitsLSB_zero_left, hpad]

/-! ## Steps that hold and steps on an unassigned code -/

/-- With no access waiting, a step of an open stream is one transition of the decoder (R230). -/
theorem step_decoding {s : State} (hq : s.hostq = []) (hdec : decoding s = true) :
    step s = (decoderStep exec s).getD (.next (rollback s)) := by
  rw [step, hq]
  exact if_pos hdec

/-- With no access waiting and no stream being decoded, nothing happens (R333). -/
theorem step_of_not_decoding {s : State} (hq : s.hostq = []) (hdec : decoding s = false) : step s = .next s := by
  rw [step, hq]
  exact if_neg (Bool.eq_false_iff.mp hdec)

/-- A held step leaves the state of its boundary (R128). -/
theorem step_of_hold {s : State} (hq : s.hostq = []) (hdec : decoding s = true) (hb : s.AtBoundary)
    (hold : decoderStep exec s = none) : step s = .next s := by
  rw [step_decoding hq hdec, hold, Option.getD_none, rollback_of_boundary hb]

/-- Bits that form no code are a fault of the transition (R126). -/
theorem decoderStep_unassigned {run : Instr → State → Host.Outcome State Fault Refusal} {s : State}
    (hf : fetchElement s = some .unassigned) : decoderStep run s = some (.next (raise .unassignedCode s)) := by
  rw [decoderStep, hf]
  rfl

/-- A length symbol whose distance symbol is not complete holds as a whole (R128, R258). -/
theorem decoderStep_distanceHolds {run : Instr → State → Host.Outcome State Fault Refusal} {s t u : State}
    {i : Instr} (hf : fetchElement s = some (.element i t)) (hrun : run i t = .next u) (hd : distanceHolds u = true) :
    decoderStep run s = none := by
  simp only [decoderStep, hf, runFetch, hrun, Option.bind_some, wholeElement, if_pos hd]

theorem distanceHolds_of_hold {u : State} (hp : u.pendLen ≠ none) (hf : fetchElement u = some .hold) :
    distanceHolds u = true := by
  rw [distanceHolds, hf, Option.isSome_iff_ne_none.mpr hp]
  rfl

/-- Settles O46: a step is the decoder's transition, which answers nothing on a hold, of the element or of the distance
half of a match, and a fault on an unassigned code. -/
theorem stepHoldsOrFaultsOnBits : Obligations.StepHoldsOrFaultsOnBits := by
  intro s hq
  refine ⟨step_of_not_decoding hq, step_of_hold hq, fun hdec hf => ?_, fun hdec hb i t u hf hrun hp hhold => ?_⟩
  · rw [step_decoding hq hdec, decoderStep_unassigned hf]
    rfl
  · exact step_of_hold hq hdec hb (decoderStep_distanceHolds hf hrun (distanceHolds_of_hold hp hhold))

end Sys2Proof.Machine

/-! PROOFS. The window as a sink, the copy that repeats history, and the matches that the distance half refuses (spec
41_window R140 to R143, 45_inflate R236, R258, 60_exceptions R330). -/

namespace Sys2Proof.Machine

/-! ## Appending and copying -/

/-- In compress mode the window is history only: nothing is produced (R140, R144). -/
theorem windowAppendAll_noOutput (bs : List Byte) {s : State} (hm : s.mode ≠ .decompress) :
    (windowAppendAll bs s).out = s.out ∧ (windowAppendAll bs s).totalOut = s.totalOut := by
  induction bs using List.reverseRecOn with
  | nil => exact ⟨rfl, rfl⟩
  | append_singleton bs b ih =>
    rw [windowAppendAll_concat, windowAppend_out, windowAppend_totalOut, windowAppendAll_mode, if_neg hm, if_neg hm]
    exact ih

/-- Settles O11: the window and the checksum follow the bytes in either mode; the mode decides about the output. -/
theorem windowAppendStoresBytes : Obligations.WindowAppendStoresBytes := fun bs s hsorted hpos hhave =>
  ⟨windowAppendAll_windowHolds bs hsorted hpos hhave, windowAppendAll_frame bs s, windowAppendAll_output bs,
    windowAppendAll_noOutput bs⟩

/-- Settles O12: before each byte of the copy, the source holds the next byte of the repeated history. -/
theorem windowCopyRepeatsHistory : Obligations.WindowCopyRepeatsHistory := fun _ length _ hd hle hsorted hpos =>
  windowCopy_eq_windowAppendAll length hd hle hsorted hpos

/-! ## Matches that are refused -/

/-- A distance symbol with no length before it stops the model (log 12). -/
theorem exec_of_mem_distanceSymbols_stray {x : BitVec 13} {e : Instr × Nat} {s : State}
    (he : e ∈ distanceSymbols x) (hlen : s.pendLen = none) : exec e.1 s = .fault .strayDistance := by
  obtain ⟨j, hj⟩ := List.mem_iff_getElem?.mp he
  obtain ⟨row, base, hrow, -, rfl⟩ := List.getElem?_zipWith_eq_some.mp hj
  obtain ⟨-, -, hexec⟩ := distRow_eq hrow x
  simp only [hexec, matchDistanceHalf, hlen]

/-- A match that reaches back past the history is refused before the cap is looked at (R143, R330). -/
theorem copyMatch_of_tooFar {length distance : Nat} {s : State} (hfar : s.whave < distance) :
    copyMatch length distance s = raise .distanceTooFar s := if_pos hfar

/-- A match within the history that would exceed the cap is refused as a whole (R236, R330). -/
theorem copyMatch_of_overLimit {length distance : Nat} {s : State} (hhave : distance ≤ s.whave)
    (hcap : s.outLimit.toNat < s.totalOut + length) :
    copyMatch length distance s = raise .outputLimitExceeded s := by
  have hover : overLimit length s = true := decide_eq_true hcap
  rw [copyMatch, if_neg (Nat.not_lt.mpr hhave), if_pos hover]

/-- Settles O31: each row is one match at the base of its place in the table plus the extra value, and a refused match
leaves the fault alone behind. -/
theorem distanceSymbolsCheckHistoryThenCap : Obligations.DistanceSymbolsCheckHistoryThenCap := by
  intro x s e he
  have hmem : e ∈ distanceSymbols x := he
  refine ⟨exec_of_mem_distanceSymbols_stray hmem, fun length hlen => ⟨fun hfar => ?_, fun hhave hcap => ?_⟩⟩
  · rw [exec_of_mem_distanceSymbols hmem hlen, copyMatch_of_tooFar hfar]
    rfl
  · rw [exec_of_mem_distanceSymbols hmem hlen, copyMatch_of_overLimit hhave hcap]
    rfl

end Sys2Proof.Machine

/-! PROOFS. The Hash-Chain Matcher (spec 42_matcher R152 to R157): what an insertion changes, and the search as a fold
over the candidates of the chain. -/

namespace Sys2Proof.Machine

/-! ## Insertion -/

/-- Settles O35: each of the two memories gets one entry, and a sorted memory reads back what was written. -/
theorem insertMakesChainHead : Obligations.InsertMakesChainHead := fun p _ hhead hprev =>
  ⟨sparseRead_sparseWrite_same _ (some p) hhead, sparseRead_sparseWrite_same _ _ hprev,
    fun _ hne => sparseRead_sparseWrite_ne (some p) hne, fun _ hne => sparseRead_sparseWrite_ne _ hne, rfl⟩

/-! ## The search as a fold over the candidates -/

/-- One pass of the search (R154): a candidate replaces the best so far only if its match is strictly longer. -/
def keepLonger (s : State) (p maxlen : Nat) (best : Best) (q : Nat) : Best :=
  if best.len < matchLength s q p maxlen then { len := matchLength s q p maxlen, dist := p - q } else best

/-- The best that the search is left with after the candidates `qs`; before the first one no match counts as two bytes
long (R154, R156). -/
def bestOf (s : State) (p maxlen : Nat) (qs : List Nat) : Best :=
  qs.foldl (keepLonger s p maxlen) { len := 2, dist := 0 }

theorem walkChain_eq_foldl (s : State) (p maxlen n : Nat) (q : Option Nat) (best : Best) :
    walkChain s p maxlen n q best = (candidates s p n q).foldl (keepLonger s p maxlen) best := by
  induction n generalizing q best with
  | zero => rfl
  | succ n ih =>
    cases q with
    | none => rfl
    | some q =>
      unfold walkChain candidates
      split
      · exact ih _ _
      · rfl

/-- `findMatch` in terms of its candidates (R154). -/
theorem findMatch_eq (s : State) (p effort maxlen : Nat) :
    findMatch s p effort maxlen =
      if maxlen < 3 ∨ effort = 0 then none
      else if 3 ≤ (bestOf s p maxlen (candidates s p effort (headRead s (hashAt s p)))).len then
        some (bestOf s p maxlen (candidates s p effort (headRead s (hashAt s p))))
      else none := by
  unfold findMatch
  rw [walkChain_eq_foldl]
  rfl

/-- `m` is the match at the first of the longest among the candidates `qs` (R154, R155). -/
def FirstLongest (s : State) (p maxlen : Nat) (qs : List Nat) (m : Best) : Prop :=
  ∃ before q after, qs = before ++ q :: after ∧ m.dist = p - q ∧ m.len = matchLength s q p maxlen ∧
    (∀ r ∈ before, matchLength s r p maxlen < m.len) ∧ ∀ r ∈ after, matchLength s r p maxlen ≤ m.len

/-- A candidate in front that is shorter than the longest does not change which one is first of the longest. -/
theorem FirstLongest.cons {s : State} {p maxlen q : Nat} {qs : List Nat} {m : Best}
    (h : FirstLongest s p maxlen qs m) (hq : matchLength s q p maxlen < m.len) :
    FirstLongest s p maxlen (q :: qs) m := by
  obtain ⟨before, r, after, rfl, hdist, hlen, hbefore, hafter⟩ := h
  exact ⟨q :: before, r, after, rfl, hdist, hlen, List.forall_mem_cons.mpr ⟨hq, hbefore⟩, hafter⟩

/-- Either no candidate beats the best so far, or the search ends with the first of the longest (R154, R155). -/
theorem foldl_keepLonger (s : State) (p maxlen : Nat) (qs : List Nat) (best : Best) :
    (qs.foldl (keepLonger s p maxlen) best = best ∧ ∀ q ∈ qs, matchLength s q p maxlen ≤ best.len) ∨
      (best.len < (qs.foldl (keepLonger s p maxlen) best).len ∧
        FirstLongest s p maxlen qs (qs.foldl (keepLonger s p maxlen) best)) := by
  induction qs generalizing best with
  | nil => exact .inl ⟨rfl, fun _ hq => absurd hq List.not_mem_nil⟩
  | cons q qs ih =>
    rw [List.foldl_cons]
    by_cases hq : best.len < matchLength s q p maxlen
    · have hkeep : keepLonger s p maxlen best q = { len := matchLength s q p maxlen, dist := p - q } := if_pos hq
      rw [hkeep]
      rcases ih { len := matchLength s q p maxlen, dist := p - q } with ⟨heq, hall⟩ | ⟨hlt, hfirst⟩
      · rw [heq]
        exact .inr ⟨hq, [], q, qs, rfl, rfl, rfl, fun _ hr => absurd hr List.not_mem_nil, hall⟩
      · exact .inr ⟨hq.trans hlt, hfirst.cons hlt⟩
    · have hkeep : keepLonger s p maxlen best q = best := if_neg hq
      rw [hkeep]
      rcases ih best with ⟨heq, hall⟩ | ⟨hlt, hfirst⟩
      · exact .inl ⟨heq, List.forall_mem_cons.mpr ⟨Nat.le_of_not_lt hq, hall⟩⟩
      · exact .inr ⟨hlt, hfirst.cons (lt_of_le_of_lt (Nat.le_of_not_lt hq) hlt)⟩

/-- No candidate reaches three bytes, or the best is the first of the longest and does (R154 to R156). -/
theorem bestOf_cases (s : State) (p maxlen : Nat) (qs : List Nat) :
    ((bestOf s p maxlen qs).len < 3 ∧ ∀ q ∈ qs, matchLength s q p maxlen < 3) ∨
      (3 ≤ (bestOf s p maxlen qs).len ∧ FirstLongest s p maxlen qs (bestOf s p maxlen qs)) := by
  rcases foldl_keepLonger s p maxlen qs { len := 2, dist := 0 } with ⟨heq, hall⟩ | hfirst
  · have hbest : bestOf s p maxlen qs = { len := 2, dist := 0 } := heq
    exact .inl ⟨by rw [hbest]; decide, fun q hq => Nat.lt_succ_of_le (hall q hq)⟩
  · exact .inr hfirst

theorem findMatch_firstLongest {s : State} {p effort maxlen : Nat} {m : Best}
    (h : findMatch s p effort maxlen = some m) :
    FirstLongest s p maxlen (candidates s p effort (headRead s (hashAt s p))) m := by
  rw [findMatch_eq] at h
  split at h
  · cases h
  · split at h
    · next hlen =>
      cases h
      rcases bestOf_cases s p maxlen (candidates s p effort (headRead s (hashAt s p))) with
        ⟨hshort, -⟩ | ⟨-, hfirst⟩
      · omega
      · exact hfirst
    · cases h

theorem findMatch_eq_none {s : State} {p effort maxlen : Nat} (h : findMatch s p effort maxlen = none) :
    maxlen < 3 ∨ ∀ q ∈ candidates s p effort (headRead s (hashAt s p)), matchLength s q p maxlen < 3 := by
  rw [findMatch_eq] at h
  split at h
  · next hguard =>
    rcases hguard with hmax | rfl
    · exact .inl hmax
    · exact .inr fun _ hq => absurd hq List.not_mem_nil
  · split at h
    · cases h
    · next hlen =>
      rcases bestOf_cases s p maxlen (candidates s p effort (headRead s (hashAt s p))) with
        ⟨-, hall⟩ | ⟨hlong, -⟩
      · exact .inr hall
      · exact absurd hlong hlen

/-- Settles O37: the search is a fold over the candidates that replaces its best only by a strictly longer match. -/
theorem findMatchIsLongestFirst : Obligations.FindMatchIsLongestFirst := by
  refine fun s p effort maxlen => ⟨findMatch_eq_none, fun m hm => ?_⟩
  obtain ⟨before, q, after, hcand, hdist, hlen, hbefore, hafter⟩ := findMatch_firstLongest hm
  exact ⟨before, q, after, hcand, hdist, hlen, (findMatch_len hm).1, hbefore, hafter⟩

/-! ## Soundness -/

/-- Every candidate is a position of the history, no farther back than the window reaches (R28, R154). -/
theorem candidate_in_history {s : State} {p n q : Nat} {start : Option Nat} (hc : ChainsBelow p s)
    (hstart : ∀ k, start = some k → k < p) (hq : q ∈ candidates s p n start) :
    q < p ∧ p - q ≤ wsize s.params := by
  induction n generalizing start with
  | zero => exact absurd hq List.not_mem_nil
  | succ n ih =>
    cases start with
    | none => exact absurd hq List.not_mem_nil
    | some k =>
      unfold candidates at hq
      split at hq
      · next hnear =>
        rcases List.mem_cons.mp hq with rfl | hq
        · exact ⟨hstart _ rfl, hnear⟩
        · exact ih (fun j hj => hc.prevRead_lt hj) hq
      · exact absurd hq List.not_mem_nil

/-- Settles O36: the match is that of a candidate, a candidate is a position of the history, and a comparison counts
only equal bytes. -/
theorem findMatchIsSound : Obligations.FindMatchIsSound := by
  intro s m hchain hm
  obtain ⟨hmin, hmax⟩ := findMatch_len hm
  obtain ⟨before, q, after, hcand, hdist, hlen, -, -⟩ := findMatch_firstLongest hm
  obtain ⟨hlt, hnear⟩ : q < s.wtotal ∧ s.wtotal - q ≤ wsize s.params :=
    candidate_in_history hchain (fun k hk => ChainsBelow.headRead_lt hchain hk)
      (by rw [hcand]; exact List.mem_append_right _ List.mem_cons_self)
  have hstart : s.wtotal - m.dist = q := by omega
  have hcap : m.len ≤ 258 := hmax.trans (Nat.min_le_left _ _)
  refine ⟨hmin, hcap, hmax.trans (Nat.min_le_right _ _), by omega, by omega, fun k hk => ?_⟩
  rw [hstart]
  exact matchLength_equal s q s.wtotal _ k (hlen ▸ hk)

end Sys2Proof.Machine

/-! PROOFS. Independence of chunking in compress mode (spec 42_matcher R160, R161): while 260 bytes wait, accepting a
token reads none of the bytes behind them, so bytes that arrive later commute with it. -/

namespace Sys2Proof.Machine

/-! ## Bytes that arrive behind the lookahead -/

/-- The state with more bytes behind the lookahead, and with other values in the two registers that FEED accounts the
input with and that the tokeniser does not read. -/
def withInput (chunk : List Byte) (count : Nat) (waiting : Bool) (s : State) : State :=
  { s with la := s.la ++ chunk, totalIn := count, pending := waiting }

theorem feedCompress_eq (chunk : List Byte) (s : State) :
    feedCompress chunk s = tokenise false (withInput chunk (s.totalIn + chunk.length) s.pending s) := rfl

section
variable (chunk : List Byte) (count : Nat) (waiting : Bool)

theorem withInput_nil (s : State) : withInput [] count waiting s = { s with totalIn := count, pending := waiting } := by
  unfold withInput
  rw [List.append_nil]

theorem withInput_withInput (later : List Byte) (count' : Nat) (waiting' : Bool) (s : State) :
    withInput later count' waiting' (withInput chunk count waiting s) =
      withInput (chunk ++ later) count' waiting' s := by
  unfold withInput
  rw [← List.append_assoc]

theorem length_withInput_la (s : State) : (withInput chunk count waiting s).la.length = s.la.length + chunk.length :=
  List.length_append

/-- `DATA` at a position whose byte is known (R150). -/
theorem dataAt_withInput {s : State} {x : Nat} (hx : x < s.wtotal + s.la.length) :
    dataAt (withInput chunk count waiting s) x = dataAt s x := by
  show (if x < s.wtotal then winRead s.win (x % wsize s.params) else (s.la ++ chunk).getD (x - s.wtotal) 0) = dataAt s x
  unfold dataAt
  split
  · rfl
  · exact List.getD_append _ _ _ _ (by omega)

/-- The hash at a position whose three bytes are known (R151). -/
theorem hashAt_withInput {s : State} {x : Nat} (hx : x + 2 < s.wtotal + s.la.length) :
    hashAt (withInput chunk count waiting s) x = hashAt s x := by
  unfold hashAt
  rw [dataAt_withInput _ _ _ (by omega), dataAt_withInput _ _ _ (by omega), dataAt_withInput _ _ _ (by omega)]

/-! ## The search -/

theorem matchLength_withInput {s : State} {a b n : Nat} (ha : a + n ≤ s.wtotal + s.la.length)
    (hb : b + n ≤ s.wtotal + s.la.length) :
    matchLength (withInput chunk count waiting s) a b n = matchLength s a b n := by
  induction n generalizing a b with
  | zero => rfl
  | succ n ih =>
    unfold matchLength
    rw [dataAt_withInput _ _ _ (by omega), dataAt_withInput _ _ _ (by omega), ih (by omega) (by omega)]

/-- The candidates are read from the chains alone (R154). -/
theorem candidates_withInput (s : State) (p n : Nat) (q : Option Nat) :
    candidates (withInput chunk count waiting s) p n q = candidates s p n q := by
  induction n generalizing q with
  | zero => rfl
  | succ n ih =>
    cases q with
    | none => rfl
    | some q => exact if_congr Iff.rfl (congrArg (q :: ·) (ih _)) rfl

/-- The search at a position whose bytes to be compared are known finds the same match (R154). -/
theorem findMatch_withInput {s : State} {p effort maxlen : Nat} (hc : ChainsBelow p s)
    (hhash : p + 2 < s.wtotal + s.la.length) (hmax : p + maxlen ≤ s.wtotal + s.la.length) :
    findMatch (withInput chunk count waiting s) p effort maxlen = findMatch s p effort maxlen := by
  have hbest : bestOf (withInput chunk count waiting s) p maxlen (candidates s p effort (headRead s (hashAt s p))) =
      bestOf s p maxlen (candidates s p effort (headRead s (hashAt s p))) := by
    refine List.foldl_ext _ _ _ fun best q hq => ?_
    obtain ⟨hlt, -⟩ := candidate_in_history hc (fun k hk => hc.headRead_lt hk) hq
    unfold keepLonger
    rw [matchLength_withInput _ _ _ (by omega) hmax]
  have hhead : headRead (withInput chunk count waiting s) (hashAt s p) = headRead s (hashAt s p) := rfl
  rw [findMatch_eq, findMatch_eq, hashAt_withInput _ _ _ hhash, hhead, candidates_withInput, hbest]

/-- While 260 bytes wait, the next token is decided by them (R158, R160). -/
theorem nextToken_withInput {s : State} (hc : s.ChainInv) (hla : lookaheadMin ≤ s.la.length) :
    nextToken (withInput chunk count waiting s) = nextToken s := by
  have hmin : lookaheadMin = 260 := rfl
  have hmax : maxMatch = 258 := rfl
  have hlong : min maxMatch (withInput chunk count waiting s).la.length = maxMatch := by
    rw [length_withInput_la]
    omega
  have hshort : min maxMatch s.la.length = maxMatch := by omega
  have hfind : findMatch (withInput chunk count waiting s) (withInput chunk count waiting s).wtotal
      (withInput chunk count waiting s).effort maxMatch = findMatch s s.wtotal s.effort maxMatch :=
    findMatch_withInput _ _ _ (p := s.wtotal) hc (by omega) (by omega)
  have hfirst : (withInput chunk count waiting s).la.getD 0 0 = s.la.getD 0 0 := List.getD_append _ _ _ _ (by omega)
  unfold nextToken
  rw [hlong, hshort, hfirst, hfind]

/-! ## Accepting a token -/

theorem insertPos_withInput {s : State} {p : Nat} (hp : p + 2 < s.wtotal + s.la.length) :
    insertPos p (withInput chunk count waiting s) = withInput chunk count waiting (insertPos p s) := by
  unfold insertPos
  rw [hashAt_withInput _ _ _ hp]
  rfl

/-- Positions whose three bytes are known are inserted alike (R153). -/
theorem insertRange_withInput {s : State} {p n : Nat} (hp : p + n + 2 ≤ s.wtotal + s.la.length) :
    insertRange p n (withInput chunk count waiting s) = withInput chunk count waiting (insertRange p n s) := by
  induction n generalizing p s with
  | zero => rfl
  | succ n ih =>
    have hknown : p + 2 < s.wtotal + s.la.length := by omega
    have hknown' : p + 2 < (withInput chunk count waiting s).wtotal + (withInput chunk count waiting s).la.length := by
      rw [length_withInput_la]
      exact Nat.lt_of_lt_of_le hknown (Nat.add_le_add_left (Nat.le_add_right _ _) _)
    unfold insertRange
    rw [if_pos hknown, if_pos hknown', insertPos_withInput _ _ _ hknown]
    exact ih (by rw [insertPos_wtotal, insertPos_la]; omega)

theorem insertRange_la (p n : Nat) (s : State) : (insertRange p n s).la = s.la := by
  rw [insertRange_frame]

theorem windowAppend_withInput (b : Byte) (s : State) :
    windowAppend b (withInput chunk count waiting s) = withInput chunk count waiting (windowAppend b s) := by
  by_cases hm : s.mode = .decompress <;> simp [windowAppend, windowEmit, adlerUpdate, withInput, hm]

theorem windowAppendAll_withInput (bs : List Byte) (s : State) :
    windowAppendAll bs (withInput chunk count waiting s) = withInput chunk count waiting (windowAppendAll bs s) := by
  induction bs generalizing s with
  | nil => rfl
  | cons b bs ih => rw [windowAppendAll_cons, windowAppendAll_cons, windowAppend_withInput, ih]

theorem consumeToken_withInput {s : State} {n : Nat} (hn : n ≤ s.la.length) :
    consumeToken n (withInput chunk count waiting s) = withInput chunk count waiting (consumeToken n s) := by
  have htake : (withInput chunk count waiting s).la.take n = s.la.take n := List.take_append_of_le_length hn
  have hdrop : (withInput chunk count waiting s).la.drop n = s.la.drop n ++ chunk := List.drop_append_of_le_length hn
  unfold consumeToken
  rw [htake, hdrop, windowAppendAll_withInput]
  rfl

/-- Emitting a block does not read the lookahead (R202). -/
theorem emitBlock_withInput (final : Bool) (s : State) :
    emitBlock final (withInput chunk count waiting s) = withInput chunk count waiting (emitBlock final s) := rfl

theorem takeToken_withInput {s : State} (hc : s.ChainInv) (hla : lookaheadMin ≤ s.la.length) :
    takeToken (withInput chunk count waiting s) = withInput chunk count waiting (takeToken s) := by
  have hmin : lookaheadMin = 260 := rfl
  have hmax : maxMatch = 258 := rfl
  obtain ⟨-, hspan, hcap⟩ := tokenSpan_nextToken (s := s) (by omega)
  have hinsert : insertRange s.wtotal (tokenSpan (nextToken s))
      (withInput chunk count waiting { s with tok := s.tok ++ [nextToken s] }) = _ :=
    insertRange_withInput chunk count waiting (by show _ ≤ s.wtotal + s.la.length; omega)
  unfold takeToken
  rw [nextToken_withInput chunk count waiting hc hla]
  exact (congrArg _ hinsert).trans (consumeToken_withInput chunk count waiting (by rwa [insertRange_la]))

/-- While 260 bytes wait, accepting a token commutes with the arrival of more bytes (R160, R161). -/
theorem acceptToken_withInput {s : State} (hc : s.ChainInv) (hla : lookaheadMin ≤ s.la.length) :
    acceptToken (withInput chunk count waiting s) = withInput chunk count waiting (acceptToken s) := by
  rw [acceptToken_eq, acceptToken_eq, takeToken_withInput chunk count waiting hc hla,
    apply_ite (withInput chunk count waiting)]
  rfl

end

/-! ## The tokeniser loop -/

/-- The loop stops for the rule's reason: once every waiting byte has its pass, more passes change nothing (R160,
log 18). -/
theorem tokeniseLoop_fuel (finishing : Bool) {n m : Nat} {s : State} (hn : s.la.length ≤ n) (hm : s.la.length ≤ m) :
    tokeniseLoop finishing n s = tokeniseLoop finishing m s := by
  have hstop {k : Nat} {t : State} (h : t.la.length = 0) : tokeniseLoop finishing k t = t := by
    cases k with
    | zero => rfl
    | succ k => exact if_pos (.inl h)
  induction n generalizing m s with
  | zero => rw [hstop (Nat.le_zero.mp hn), hstop (Nat.le_zero.mp hn)]
  | succ n ih =>
    cases m with
    | zero => rw [hstop (Nat.le_zero.mp hm), hstop (Nat.le_zero.mp hm)]
    | succ m =>
      unfold tokeniseLoop
      split
      · rfl
      · next hgo =>
        have hlt := acceptToken_la_length_lt (s := s) (by omega)
        exact ih (by omega) (by omega)

theorem tokenise_of_short {s : State} (h : s.la.length < lookaheadMin) : tokenise false s = s := by
  unfold tokenise
  cases s.la.length with
  | zero => rfl
  | succ n => exact if_pos (.inr ⟨rfl, h⟩)

theorem tokenise_of_long {s : State} (h : lookaheadMin ≤ s.la.length) :
    tokenise false s = tokenise false (acceptToken s) := by
  have hmin : lookaheadMin = 260 := rfl
  have hlt := acceptToken_la_length_lt (s := s) (by omega)
  obtain ⟨n, hn⟩ : ∃ n, s.la.length = n + 1 := ⟨s.la.length - 1, by omega⟩
  have hpass : tokeniseLoop false (n + 1) s = tokeniseLoop false n (acceptToken s) := if_neg (by omega)
  show tokeniseLoop false s.la.length s = _
  rw [hn, hpass]
  exact tokeniseLoop_fuel false (by omega) (Nat.le_refl _)

theorem acceptToken_chainInv {s : State} (hla : 0 < s.la.length) (h : s.ChainInv) : (acceptToken s).ChainInv := by
  rw [acceptToken_eq]
  split
  · rw [emitBlock_frame]
    exact takeToken_chainInv hla h
  · exact takeToken_chainInv hla h

/-- When more bytes arrive, it makes no difference whether the tokeniser has run before (R161). -/
theorem tokenise_withInput (chunk : List Byte) (count : Nat) (waiting : Bool) {s : State} (hc : s.ChainInv) :
    tokenise false (withInput chunk count waiting (tokenise false s)) =
      tokenise false (withInput chunk count waiting s) := by
  have hmin : lookaheadMin = 260 := rfl
  induction hn : s.la.length using Nat.strong_induction_on generalizing s with
  | _ n ih =>
    subst hn
    by_cases hla : s.la.length < lookaheadMin
    · rw [tokenise_of_short hla]
    · have hlong := Nat.le_of_not_lt hla
      have hpos : 0 < s.la.length := by omega
      have hlong' : lookaheadMin ≤ (withInput chunk count waiting s).la.length :=
        hlong.trans (by rw [length_withInput_la]; exact Nat.le_add_right _ _)
      calc tokenise false (withInput chunk count waiting (tokenise false s))
          = tokenise false (withInput chunk count waiting (tokenise false (acceptToken s))) := by
            rw [tokenise_of_long hlong]
        _ = tokenise false (withInput chunk count waiting (acceptToken s)) :=
            ih _ (acceptToken_la_length_lt hpos) (acceptToken_chainInv hpos hc) rfl
        _ = tokenise false (acceptToken (withInput chunk count waiting s)) := by
            rw [acceptToken_withInput chunk count waiting hc hlong]
        _ = tokenise false (withInput chunk count waiting s) := (tokenise_of_long hlong').symm

/-- The tokeniser stops short of 260 waiting bytes (R160). -/
theorem tokenise_la_length_lt (s : State) : (tokenise false s).la.length < lookaheadMin := by
  obtain ⟨k, heq, -, hend⟩ := tokenise_iterate false s
  rw [heq]
  rcases hend with hnil | ⟨-, hlt⟩
  · rw [hnil]; decide
  · exact hlt

/-- The tokeniser neither reads nor writes `TOTAL_IN` and `PENDING`. -/
theorem tokenise_accounts (count : Nat) (waiting : Bool) {s : State} (hc : s.ChainInv) :
    tokenise false { s with totalIn := count, pending := waiting } =
      { tokenise false s with totalIn := count, pending := waiting } := by
  have hafter := tokenise_withInput [] count waiting hc
  rw [withInput_nil, withInput_nil] at hafter
  rw [← hafter]
  exact tokenise_of_short (tokenise_la_length_lt s)

theorem tokenise_keeps_accounts {s : State} (hc : s.ChainInv) :
    (tokenise false s).totalIn = s.totalIn ∧ (tokenise false s).pending = s.pending := by
  have hsame : tokenise false s = { tokenise false s with totalIn := s.totalIn, pending := s.pending } :=
    tokenise_accounts s.totalIn s.pending hc
  rw [hsame]
  exact ⟨rfl, rfl⟩

/-! ## FEED -/

theorem exec_feed_compress (chunk : List Byte) {s : State} (hp : s.phase = .active) (hm : s.mode = .compress) :
    exec (.feed chunk) s = .next (endCommand (feedCompress chunk s)) := by
  show execFeed chunk s = _
  simp only [execFeed, hp, hm]

/-- FEED leaves the stream open (R295). -/
theorem feedCompress_open (chunk : List Byte) {s : State} (hp : s.phase = .active) (hm : s.mode = .compress) :
    (feedCompress chunk s).phase = .active ∧ (feedCompress chunk s).mode = .compress := by
  have hframe : DatapathFrame (withInput chunk (s.totalIn + chunk.length) s.pending s) (feedCompress chunk s) :=
    tokenise_datapathFrame false hm
  rw [hframe]
  exact ⟨hp, hm⟩

theorem feedCompress_chainInv (chunk : List Byte) {s : State} (hm : s.mode = .compress) (hc : s.ChainInv) :
    (feedCompress chunk s).ChainInv :=
  tokenise_induction (P := State.ChainInv) (fun _ _ hla h => acceptToken_chainInv hla h) false hm hc

/-- The body of FEED counts the chunk and leaves `PENDING` to the end of the command (R290, R295). -/
theorem feedCompress_accounts (chunk : List Byte) {s : State} (hc : s.ChainInv) :
    (feedCompress chunk s).totalIn = s.totalIn + chunk.length ∧ (feedCompress chunk s).pending = s.pending :=
  tokenise_keeps_accounts (s := withInput chunk (s.totalIn + chunk.length) s.pending s) hc

/-- What `PENDING` was when a FEED began is overwritten at its end (R290). -/
theorem endCommand_feedCompress_endCommand (chunk : List Byte) {s : State} (hc : s.ChainInv) :
    endCommand (feedCompress chunk (endCommand s)) = endCommand (feedCompress chunk s) := by
  have hpending : feedCompress chunk (endCommand s) =
      { feedCompress chunk s with totalIn := s.totalIn + chunk.length, pending := pendingNow s } :=
    tokenise_accounts (s := withInput chunk (s.totalIn + chunk.length) s.pending s) _ _ hc
  obtain ⟨htotal, -⟩ := feedCompress_accounts chunk hc
  rw [hpending, ← htotal]
  rfl

/-- Two chunks one after the other are one chunk (R161). -/
theorem feedCompress_append (a b : List Byte) {s : State} (hc : s.ChainInv) :
    feedCompress b (feedCompress a s) = feedCompress (a ++ b) s := by
  obtain ⟨htotal, hpending⟩ := feedCompress_accounts a hc
  have hcount : s.totalIn + a.length + b.length = s.totalIn + (a ++ b).length := by
    rw [List.length_append, Nat.add_assoc]
  rw [feedCompress_eq b, htotal, hpending, hcount, feedCompress_eq a, feedCompress_eq (a ++ b), tokenise_withInput,
    withInput_withInput]
  exact hc

/-- Settles O58: the tokens that the first FEED accepts are those that the one FEED of both chunks accepts first. -/
theorem compressIgnoresChunking : Obligations.CompressIgnoresChunking := by
  intro a b s hp hm hc
  obtain ⟨hp', hm'⟩ := feedCompress_open a hp hm
  refine ⟨_, _, exec_feed_compress a hp hm, exec_feed_compress b hp' hm', ?_⟩
  rw [exec_feed_compress (a ++ b) hp hm, endCommand_feedCompress_endCommand b (feedCompress_chainInv a hm hc),
    feedCompress_append a b hc]

end Sys2Proof.Machine

/-! PROOFS. The Kraft sum over a list of lengths and over its counts, and the decode table: what `DecodeSym` finds,
which sets are refused and how the symbols are sorted (spec 43_huffman R175, R185 to R187, 40_bitio R126). -/

namespace Sys2Proof.Machine

/-- Settles O6: if one code stood at the front of another, `DecodeSym` would find both symbols in the longer one. -/
theorem canonicalCodesDecodeBack : Obligations.CanonicalCodesDecodeBack := by
  intro lens hlens hover y hy
  obtain ⟨k, hk, hyk⟩ := exists_getD_eq_succ hlens hy
  refine ⟨?_, fun z hzy hz hfront => ?_, decodeSym_canonicalCode hlens hover hy⟩
  · rw [hyk]
    exact assignCanonicalCodes_lt hover hyk hk
  · obtain ⟨rest, hrest⟩ := hfront
    have hreadz := decodeSym_canonicalCode hlens hover hz []
    rw [List.append_nil, ← hrest, decodeSym_canonicalCode hlens hover hy rest] at hreadz
    injection hreadz with hyz
    exact hzy hyz.symm

/-! ## The Kraft sum and the sum of the counts -/

theorem kraft_eq_zero {cnt : List Nat} (h : ∀ c ∈ cnt, c = 0) : kraft cnt = 0 := by
  induction cnt with
  | nil => rfl
  | cons c cs ih =>
    obtain ⟨hc, hcs⟩ := List.forall_mem_cons.mp h
    rw [kraft, hc, ih hcs, Nat.zero_mul]

/-- Changing the count of one length changes the Kraft sum by its weight (R186). -/
theorem kraft_modify {cnt : List Nat} {k : Nat} (f : Nat → Nat) (hk : k < cnt.length) :
    kraft (cnt.modify k f) + cnt.getD k 0 * 2 ^ (cnt.length - 1 - k) =
      kraft cnt + f (cnt.getD k 0) * 2 ^ (cnt.length - 1 - k) := by
  induction cnt generalizing k with
  | nil => exact absurd hk (Nat.not_lt_zero k)
  | cons c cs ih =>
    cases k with
    | zero => simp [kraft]; omega
    | succ k =>
      have hrest := ih (k := k) (by simpa using hk)
      have hweight : (c :: cs).length - 1 - (k + 1) = cs.length - 1 - k := by rw [List.length_cons]; omega
      rw [hweight, List.modify_succ_cons, List.getD_cons_succ, kraft, kraft, List.length_modify]
      omega

theorem sum_modify {cnt : List Nat} {k : Nat} (f : Nat → Nat) (hk : k < cnt.length) :
    (cnt.modify k f).sum + cnt.getD k 0 = cnt.sum + f (cnt.getD k 0) := by
  induction cnt generalizing k with
  | nil => exact absurd hk (Nat.not_lt_zero k)
  | cons c cs ih =>
    cases k with
    | zero => simp; omega
    | succ k =>
      have hrest := ih (k := k) (by simpa using hk)
      rw [List.modify_succ_cons, List.getD_cons_succ, List.sum_cons, List.sum_cons]
      omega

theorem lenCounts_cons_zero (m : Nat) (lens : List Nat) : lenCounts m (0 :: lens) = lenCounts m lens := by
  simp [lenCounts, lenCount]

/-- One more symbol of length `k + 1`. -/
theorem lenCounts_cons_succ (m k : Nat) (lens : List Nat) :
    lenCounts m ((k + 1) :: lens) = (lenCounts m lens).modify k (· + 1) := by
  refine List.ext_getElem (by simp) fun i h _ => ?_
  simp [lenCounts, lenCount, List.getElem_modify, List.countP_cons]
  split <;> rfl

/-- The Kraft sum over the counts is the sum of the weights of the coded symbols (R186). -/
theorem kraft_lenCounts {m : Nat} {lens : List Nat} (h : ∀ l ∈ lens, l ≤ m) :
    kraft (lenCounts m lens) = ((lens.filter (· ≠ 0)).map fun l => 2 ^ (m - l)).sum := by
  induction lens with
  | nil => exact kraft_eq_zero (by simp [lenCounts, lenCount])
  | cons l lens ih =>
    obtain ⟨hl, hlens⟩ := List.forall_mem_cons.mp h
    cases l with
    | zero => simpa [lenCounts_cons_zero] using ih hlens
    | succ k =>
      have hmod := kraft_modify (cnt := lenCounts m lens) (k := k) (· + 1) (by simpa using hl)
      have hweight : m - 1 - k = m - (k + 1) := by omega
      rw [length_lenCounts, hweight, Nat.add_mul, Nat.one_mul, ih hlens] at hmod
      rw [lenCounts_cons_succ, List.filter_cons_of_pos (by simp), List.map_cons, List.sum_cons]
      omega

/-- Every symbol with a code is counted once. -/
theorem sum_lenCounts {m : Nat} {lens : List Nat} (h : ∀ l ∈ lens, 1 ≤ l ∧ l ≤ m) :
    (lenCounts m lens).sum = lens.length := by
  induction lens with
  | nil => simp [lenCounts, lenCount]
  | cons l lens ih =>
    obtain ⟨⟨hpos, hle⟩, hlens⟩ := List.forall_mem_cons.mp h
    obtain ⟨k, rfl⟩ : ∃ k, l = k + 1 := ⟨l - 1, by omega⟩
    have hmod := sum_modify (cnt := lenCounts m lens) (k := k) (· + 1) (by simpa using hle)
    rw [lenCounts_cons_succ, List.length_cons]
    have := ih hlens
    omega

/-! ## Decode tables -/

/-- The largest length in use is in use (R185). -/
theorem maxUsedLen_used {l : Nat} {counts : List Nat} (h : maxUsedLen l counts ≠ 0) :
    ∃ k < counts.length, maxUsedLen l counts = l + k ∧ counts.getD k 0 ≠ 0 := by
  induction counts generalizing l with
  | nil => exact absurd rfl h
  | cons c cs ih =>
    by_cases hlater : maxUsedLen (l + 1) cs = 0
    · have hmax : maxUsedLen l (c :: cs) = if c = 0 then 0 else l := by simp [maxUsedLen, hlater]
      rw [hmax] at h ⊢
      by_cases hc : c = 0
      · simp [hc] at h
      · exact ⟨0, by simp, by simp [hc], hc⟩
    · obtain ⟨k, hk, hmax, hused⟩ := ih hlater
      have hmax' : maxUsedLen l (c :: cs) = maxUsedLen (l + 1) cs := by simp [maxUsedLen, hlater]
      exact ⟨k + 1, by simpa using hk, by omega, hused⟩

theorem mem_symbolsOfLen {lens : List Nat} {l y : Nat} : y ∈ symbolsOfLen lens l ↔ lens[y]? = some l := by
  induction lens generalizing y with
  | nil => simp [symbolsOfLen]
  | cons x lens ih =>
    rw [symbolsOfLen_cons, List.mem_append, List.mem_map]
    cases y with
    | zero => by_cases h : x = l <;> simp [h]
    | succ y => by_cases h : x = l <;> simp [h, ih]

theorem symbolsOfLen_pairwise_lt (lens : List Nat) (l : Nat) : (symbolsOfLen lens l).Pairwise (· < ·) := by
  induction lens with
  | nil => exact List.Pairwise.nil
  | cons x lens ih =>
    have htail : ((symbolsOfLen lens l).map (· + 1)).Pairwise (· < ·) :=
      List.pairwise_map.mpr (ih.imp fun h => by omega)
    rw [symbolsOfLen_cons]
    split
    · exact List.pairwise_cons.mpr ⟨fun y hy => by obtain ⟨z, -, rfl⟩ := List.mem_map.mp hy; omega, htail⟩
    · exact htail

theorem mem_sortedSymbols {lens : List Nat} (hlens : ∀ l ∈ lens, l ≤ 15) {y : Nat} :
    y ∈ sortedSymbols lens ↔ y < lens.length ∧ lens.getD y 0 ≠ 0 := by
  simp only [sortedSymbols, List.mem_flatMap, List.mem_range, mem_symbolsOfLen]
  constructor
  · rintro ⟨k, -, hk⟩
    obtain ⟨hy, -⟩ := List.getElem?_eq_some_iff.mp hk
    exact ⟨hy, by simp [hk]⟩
  · rintro ⟨hy, hne⟩
    obtain ⟨k, hk, hyk⟩ := exists_getD_eq_succ hlens hne
    exact ⟨k, hk, by rw [← hyk, List.getD_eq_getElem _ _ hy, List.getElem?_eq_getElem hy]⟩

/-- The order of the sorted symbols: by length, then by symbol (R185). -/
theorem sortedSymbols_pairwise (lens : List Nat) :
    (sortedSymbols lens).Pairwise fun y z =>
      lens.getD y 0 < lens.getD z 0 ∨ (lens.getD y 0 = lens.getD z 0 ∧ y < z) := by
  have hlen {l y : Nat} (h : y ∈ symbolsOfLen lens l) : lens.getD y 0 = l := by
    rw [List.getD_eq_getElem?_getD, mem_symbolsOfLen.mp h, Option.getD_some]
  rw [sortedSymbols, List.pairwise_flatMap]
  constructor
  · intro k _
    refine (symbolsOfLen_pairwise_lt lens (k + 1)).imp_of_mem fun hy hz hlt => .inr ⟨?_, hlt⟩
    rw [hlen hy, hlen hz]
  · refine List.pairwise_lt_range.imp fun hlt y hy z hz => .inl ?_
    rw [hlen hy, hlen hz]
    omega

theorem le_rawTable_maxlen {lens : List Nat} (hlens : ∀ l ∈ lens, l ≤ 15) {l : Nat} (hl : l ∈ lens) :
    l ≤ (rawTable lens).maxlen := by
  cases l with
  | zero => exact Nat.zero_le _
  | succ k => exact lt_rawTable_maxlen (hlens _ hl) (List.count_pos_iff.mpr hl)

theorem rawTable_maxlen_mem {lens : List Nat} (h : (rawTable lens).maxlen ≠ 0) : (rawTable lens).maxlen ∈ lens := by
  rw [rawTable_maxlen] at h ⊢
  obtain ⟨k, hk, hmax, hused⟩ := maxUsedLen_used h
  rw [lenCounts_getD lens (by simpa using hk)] at hused
  rw [hmax, Nat.add_comm]
  exact List.count_pos_iff.mp (Nat.pos_of_ne_zero hused)

/-- Settles O7. -/
theorem decodeTableIsSortedAndChecked : Obligations.DecodeTableIsSortedAndChecked := by
  intro lens hlens
  refine ⟨?_, fun T hT => ?_⟩
  · rw [← kraft_lenCounts hlens]
    simp [buildDecodeTable, overSubscribed]
  · obtain ⟨-, rfl⟩ := buildDecodeTable_eq_some_iff.mp hT
    refine ⟨length_lenCounts 15 lens, fun l hl hl' => ?_, fun l => le_rawTable_maxlen hlens, rawTable_maxlen_mem,
      fun y => mem_sortedSymbols hlens, sortedSymbols_pairwise lens⟩
    rw [rawTable_count, lenCounts_getD lens (by omega), Nat.sub_add_cancel hl]

end Sys2Proof.Machine

/-! PROOFS. `buildLengths`: the used symbols as the leaves of the tree, the Kraft sum of the leaf depths, the limiting
loop, and the lengths that come out of it (spec 43_huffman R171 to R174, R176). -/

namespace Sys2Proof.Machine

/-! ## The used symbols -/

/-- The used symbols with their frequencies, in the order of the symbols (R171). -/
def usedPairs (freq : List Nat) : List (Nat × Nat) := freq.zipIdx.filter fun e => e.1 != 0

/-- The used symbols, ascending (R171). -/
def usedSymbols (freq : List Nat) : List Nat := (usedPairs freq).map (·.2)

theorem mem_usedSymbols {freq : List Nat} {y : Nat} :
    y ∈ usedSymbols freq ↔ y < freq.length ∧ freq.getD y 0 ≠ 0 := by
  simp only [usedSymbols, usedPairs, List.mem_map, List.mem_filter, List.mem_zipIdx_iff_getElem?, bne_iff_ne]
  constructor
  · rintro ⟨e, ⟨he, hne⟩, rfl⟩
    obtain ⟨hlt, hget⟩ := List.getElem?_eq_some_iff.mp he
    exact ⟨hlt, by simpa [hlt, hget] using hne⟩
  · rintro ⟨hlt, hne⟩
    rw [List.getD_eq_getElem _ _ hlt] at hne
    exact ⟨(freq[y], y), ⟨List.getElem?_eq_getElem hlt, hne⟩, rfl⟩

theorem usedSymbols_nodup (freq : List Nat) : (usedSymbols freq).Nodup := by
  have hsub : (usedSymbols freq).Sublist (freq.zipIdx.map (·.2)) := List.filter_sublist.map _
  refine hsub.nodup ?_
  rw [List.zipIdx_map_snd]
  exact List.nodup_range'

@[simp] theorem length_usedSymbols (freq : List Nat) : (usedSymbols freq).length = freq.countP (· != 0) := by
  have hfst : freq = freq.zipIdx.map Prod.fst := (List.zipIdx_map_fst 0 freq).symm
  conv_rhs => rw [hfst, List.countP_map, List.countP_eq_length_filter]
  rw [usedSymbols, List.length_map]
  rfl

/-! ## A table of lengths from its pairs -/

/-- The pairs give each used symbol, and no other, one length from 1 to `M` (R170, R176). -/
structure CodesUsed (freq : List Nat) (M : Nat) (pairs : List (Nat × Nat)) : Prop where
  symbols : (pairs.map (·.1)).Perm (usedSymbols freq)
  lengths : ∀ e ∈ pairs, 1 ≤ e.2 ∧ e.2 ≤ M

/-- The Kraft sum of (symbol, length) pairs, in units of `2 ^ (−M)`. -/
def pairsKraft (M : Nat) (pairs : List (Nat × Nat)) : Nat := (pairs.map fun e => 2 ^ (M - e.2)).sum

@[simp] theorem length_lensOfPairs (n : Nat) (pairs : List (Nat × Nat)) : (lensOfPairs n pairs).length = n := by
  simp [lensOfPairs]

theorem lensOfPairs_getD {n y : Nat} (pairs : List (Nat × Nat)) (hy : y < n) :
    (lensOfPairs n pairs).getD y 0 = (pairs.lookup y).getD 0 := by
  simp [lensOfPairs, hy]

theorem lookup_of_mem {pairs : List (Nat × Nat)} (hnd : (pairs.map (·.1)).Nodup) {e : Nat × Nat} (he : e ∈ pairs) :
    pairs.lookup e.1 = some e.2 := by
  induction pairs with
  | nil => exact absurd he List.not_mem_nil
  | cons p ps ih =>
    obtain ⟨hp, hps⟩ := List.nodup_cons.mp hnd
    rw [List.lookup_cons]
    rcases List.mem_cons.mp he with rfl | hmem
    · simp
    · have hne : (e.1 == p.1) = false := beq_false_of_ne fun h => hp (List.mem_map.mpr ⟨e, hmem, h⟩)
      rw [hne]
      exact ih hps hmem

theorem CodesUsed.nodup {freq : List Nat} {M : Nat} {pairs : List (Nat × Nat)} (h : CodesUsed freq M pairs) :
    (pairs.map (·.1)).Nodup := h.symbols.nodup_iff.mpr (usedSymbols_nodup freq)

/-- A used symbol has the length of its pair, from 1 to `M`; an unused symbol has no length (R176). -/
theorem CodesUsed.getD {freq : List Nat} {M y : Nat} {pairs : List (Nat × Nat)} (h : CodesUsed freq M pairs)
    (hy : y < freq.length) :
    (lensOfPairs freq.length pairs).getD y 0 ≤ M ∧
      ((lensOfPairs freq.length pairs).getD y 0 = 0 ↔ freq.getD y 0 = 0) := by
  rw [lensOfPairs_getD pairs hy]
  by_cases hused : freq.getD y 0 = 0
  · have hnone : pairs.lookup y = none := by
      rw [List.lookup_eq_none_iff]
      intro e he
      have hmem := h.symbols.mem_iff.mp (List.mem_map_of_mem he)
      have hne : y ≠ e.1 := fun heq => (mem_usedSymbols.mp hmem).2 (heq ▸ hused)
      simpa using hne
    rw [hnone, Option.getD_none]
    exact ⟨Nat.zero_le _, iff_of_true rfl hused⟩
  · obtain ⟨e, he, rfl⟩ := List.mem_map.mp (h.symbols.mem_iff.mpr (mem_usedSymbols.mpr ⟨hy, hused⟩))
    obtain ⟨hpos, hle⟩ := h.lengths e he
    rw [lookup_of_mem h.nodup he, Option.getD_some]
    exact ⟨hle, by omega⟩

/-- The Kraft sum of the table is that of its pairs. -/
theorem CodesUsed.kraft_eq {freq : List Nat} {M : Nat} {pairs : List (Nat × Nat)} (h : CodesUsed freq M pairs) :
    (((lensOfPairs freq.length pairs).filter (· ≠ 0)).map fun l => 2 ^ (M - l)).sum = pairsKraft M pairs := by
  have hcoded : ((List.range freq.length).filter fun y => (pairs.lookup y).getD 0 ≠ 0).Perm (pairs.map (·.1)) := by
    refine (List.perm_ext_iff_of_nodup (List.nodup_range.filter _) h.nodup).mpr fun y => ?_
    rw [h.symbols.mem_iff, mem_usedSymbols, List.mem_filter, List.mem_range]
    refine and_congr_right fun hy => ?_
    rw [← lensOfPairs_getD pairs hy]
    simpa using not_congr (h.getD hy).2
  have hweights : (pairs.map (·.1)).map (fun y => 2 ^ (M - (pairs.lookup y).getD 0)) =
      pairs.map fun e => 2 ^ (M - e.2) := by
    rw [List.map_map]
    refine List.map_congr_left fun e he => ?_
    simp [lookup_of_mem h.nodup he]
  rw [pairsKraft, ← hweights, ← (hcoded.map _).sum_eq, lensOfPairs, List.filter_map, List.map_map]
  rfl

/-! ## The leaves of the tree -/

/-- The symbols at the leaves of a tree, from left to right. -/
def HuffTree.symbols : HuffTree → List Nat
  | .leaf y => [y]
  | .node a b => a.symbols ++ b.symbols

theorem leafDepths_map_fst (d : Nat) (t : HuffTree) : (leafDepths d t).map (·.1) = t.symbols := by
  induction t generalizing d with
  | leaf y => rfl
  | node a b iha ihb => rw [leafDepths, List.map_append, iha, ihb, HuffTree.symbols]

theorem le_leafDepths {d : Nat} {t : HuffTree} {e : Nat × Nat} (h : e ∈ leafDepths d t) : d ≤ e.2 := by
  induction t generalizing d with
  | leaf y =>
    rw [List.mem_singleton.mp h]
  | node a b iha ihb =>
    rcases List.mem_append.mp h with ha | hb
    · exact Nat.le_of_succ_le (iha ha)
    · exact Nat.le_of_succ_le (ihb hb)

/-- The symbols at the leaves of all live nodes (R172). -/
def liveSymbols (l : List LiveNode) : List Nat := l.flatMap fun x => x.tree.symbols

theorem insertLive_perm (x : LiveNode) (l : List LiveNode) : (insertLive x l).Perm (x :: l) := by
  induction l with
  | nil => exact .refl _
  | cons y ys ih =>
    rw [insertLive]
    split
    · exact .refl _
    · exact (ih.cons y).trans (.swap x y ys)

/-- A fold that inserts gives the list again, in another order. -/
theorem foldr_perm_of_insert {α β : Type} {insert : β → List β → List β} (f : α → β)
    (h : ∀ x l, (insert x l).Perm (x :: l)) (l : List α) :
    (l.foldr (fun e acc => insert (f e) acc) []).Perm (l.map f) := by
  induction l with
  | nil => exact .refl _
  | cons e l ih => exact (h _ _).trans (ih.cons _)

theorem liveSymbols_leaves (freq : List Nat) : (liveSymbols (leaves freq)).Perm (usedSymbols freq) := by
  have hleaves : (leaves freq).Perm ((usedPairs freq).map fun e => ⟨e.1, e.2, .leaf e.2⟩) :=
    foldr_perm_of_insert _ insertLive_perm (usedPairs freq)
  refine (hleaves.flatMap_right _).trans (.of_eq ?_)
  rw [List.flatMap_map, usedSymbols, List.map_eq_flatMap]
  rfl

theorem length_leaves (freq : List Nat) : (leaves freq).length = freq.countP (· != 0) := by
  have hleaves : (leaves freq).Perm ((usedPairs freq).map fun e => ⟨e.1, e.2, .leaf e.2⟩) :=
    foldr_perm_of_insert _ insertLive_perm (usedPairs freq)
  rw [hleaves.length_eq, List.length_map, ← length_usedSymbols, usedSymbols, List.length_map]

/-- Merging moves no symbol out of the live nodes, and with enough fuel one node is left (R172). -/
theorem mergeLive_spec (n fuel k : Nat) (l : List LiveNode) :
    (liveSymbols (mergeLive n fuel k l)).Perm (liveSymbols l) ∧
      (1 ≤ l.length → l.length ≤ fuel + 1 → (mergeLive n fuel k l).length = 1) := by
  fun_induction mergeLive n fuel k l with
  | case1 fuel k a b rest ih =>
    obtain ⟨hsymbols, hlength⟩ := ih
    have hins := insertLive_perm ⟨a.weight + b.weight, n + k, .node a.tree b.tree⟩ rest
    refine ⟨hsymbols.trans ((hins.flatMap_right _).trans (.of_eq ?_)), fun _ hle => hlength ?_ ?_⟩
    · simp [HuffTree.symbols, liveSymbols]
    · simp [hins.length_eq]
    · simpa [hins.length_eq] using hle
  | case2 fuel k l hshort =>
    refine ⟨.refl _, fun hpos hle => ?_⟩
    match l, fuel with
    | [_], _ => rfl
    | a :: b :: rest, fuel + 1 => exact (hshort fuel a b rest rfl rfl).elim
    | _ :: _ :: _, 0 => simp at hle

/-- Two or more used symbols are the leaves of a tree with two subtrees (R172, R173). -/
theorem treeDepths_eq_leafDepths {freq : List Nat} (hu : 2 ≤ freq.countP (· != 0)) :
    ∃ a b, treeDepths freq = leafDepths 0 (.node a b) ∧ (HuffTree.node a b).symbols.Perm (usedSymbols freq) := by
  obtain ⟨hsymbols, hlength⟩ := mergeLive_spec freq.length (leaves freq).length 0 (leaves freq)
  obtain ⟨root, hroot⟩ := List.length_eq_one_iff.mp (hlength (by rw [length_leaves]; omega) (Nat.le_succ _))
  have hperm := hsymbols.trans (liveSymbols_leaves freq)
  rw [hroot, liveSymbols, List.flatMap_singleton] at hperm
  have hdepths : treeDepths freq = leafDepths 0 root.tree := by simp only [treeDepths, hroot]
  rw [hdepths]
  cases hr : root.tree with
  | leaf y =>
    have hone := hperm.length_eq
    rw [hr, length_usedSymbols, HuffTree.symbols, List.length_singleton] at hone
    omega
  | node a b => exact ⟨a, b, rfl, hr ▸ hperm⟩

/-! ## The Kraft sum of the depths -/

theorem pairsKraft_append (M : Nat) (as bs : List (Nat × Nat)) :
    pairsKraft M (as ++ bs) = pairsKraft M as + pairsKraft M bs := by
  simp [pairsKraft]

/-- The leaves below a node at depth `d` weigh at least what a leaf there weighs, depths beyond `M` counted as `M`. -/
theorem le_pairsKraft_leafDepths (M d : Nat) (t : HuffTree) : 2 ^ (M - d) ≤ pairsKraft M (leafDepths d t) := by
  induction t generalizing d with
  | leaf y => simp [leafDepths, pairsKraft]
  | node a b iha ihb =>
    have hhalf : 2 ^ (M - d) ≤ 2 * 2 ^ (M - (d + 1)) := by
      rw [← Nat.pow_succ']
      exact Nat.pow_le_pow_right (by decide) (by omega)
    have ha := iha (d + 1)
    have hb := ihb (d + 1)
    rw [leafDepths, pairsKraft_append]
    omega

/-- They weigh no more than that but for one unit for each leaf beyond depth `M`. -/
theorem pairsKraft_leafDepths_le (M d : Nat) (t : HuffTree) :
    pairsKraft M (leafDepths d t) ≤
      (if d ≤ M then 2 ^ (M - d) else 0) + (leafDepths d t).countP fun e => decide (M < e.2) := by
  induction t generalizing d with
  | leaf y =>
    by_cases hd : d ≤ M
    · simp [leafDepths, pairsKraft, hd]
    · simp [leafDepths, pairsKraft, Nat.sub_eq_zero_of_le (Nat.le_of_not_le hd), Nat.lt_of_not_le hd]
  | node a b iha ihb =>
    have hhalf : 2 * (if d + 1 ≤ M then 2 ^ (M - (d + 1)) else 0) ≤ if d ≤ M then 2 ^ (M - d) else 0 := by
      by_cases hd : d + 1 ≤ M
      · rw [if_pos hd, if_pos (by omega), ← Nat.pow_succ', show M - d = M - (d + 1) + 1 by omega]
      · rw [if_neg hd]
        exact Nat.zero_le _
    have ha := iha (d + 1)
    have hb := ihb (d + 1)
    rw [leafDepths, pairsKraft_append, List.countP_append]
    omega

/-! ## The limiting loop -/

theorem getD_modify {cnt : List Nat} {j : Nat} (i : Nat) (f : Nat → Nat) (hj : j < cnt.length) :
    (cnt.modify i f).getD j 0 = if i = j then f (cnt.getD j 0) else cnt.getD j 0 := by
  rw [List.getD_eq_getElem _ _ (by simpa using hj), List.getD_eq_getElem _ _ hj, List.getElem_modify]

/-- One symbol of a length less. -/
theorem kraft_modify_pred {cnt : List Nat} {k : Nat} (h : cnt.getD k 0 ≠ 0) :
    kraft (cnt.modify k (· - 1)) + 2 ^ (cnt.length - 1 - k) = kraft cnt := by
  obtain ⟨n, hn⟩ := Nat.exists_eq_succ_of_ne_zero h
  have hmod := kraft_modify (· - 1) (lt_length_of_getD_ne_zero h)
  rw [hn, Nat.succ_mul, Nat.succ_sub_one] at hmod
  omega

theorem sum_modify_pred {cnt : List Nat} {k : Nat} (h : cnt.getD k 0 ≠ 0) :
    (cnt.modify k (· - 1)).sum + 1 = cnt.sum := by
  have hmod := sum_modify (· - 1) (lt_length_of_getD_ne_zero h)
  omega

theorem kraft_modify_add {cnt : List Nat} {k : Nat} (j : Nat) (h : k < cnt.length) :
    kraft (cnt.modify k (· + j)) = kraft cnt + j * 2 ^ (cnt.length - 1 - k) := by
  have hmod := kraft_modify (· + j) h
  rw [Nat.add_mul] at hmod
  omega

/-- The weights of all lengths but the last are even. -/
theorem kraft_append_singleton (cs : List Nat) (c : Nat) : kraft (cs ++ [c]) = 2 * kraft cs + c := by
  induction cs with
  | nil => simp [kraft]
  | cons x cs ih =>
    rw [List.cons_append, kraft, kraft, ih, List.length_append, List.length_singleton, Nat.pow_succ]
    ring

/-- One leaf at depth `k + 1` becomes an internal node with two leaf children (R174). -/
def openLeaf (cnt : List Nat) (k : Nat) : List Nat := (cnt.modify k (· - 1)).modify (k + 1) (· + 2)

@[simp] theorem length_openLeaf (cnt : List Nat) (k : Nat) : (openLeaf cnt k).length = cnt.length := by
  simp [openLeaf]

theorem kraft_openLeaf {cnt : List Nat} {k : Nat} (hk : k + 1 < cnt.length) (hne : cnt.getD k 0 ≠ 0) :
    kraft (openLeaf cnt k) = kraft cnt := by
  have hweight : 2 ^ (cnt.length - 1 - k) = 2 * 2 ^ (cnt.length - 1 - (k + 1)) := by
    rw [← Nat.pow_succ', Nat.succ_eq_add_one, show cnt.length - 1 - (k + 1) + 1 = cnt.length - 1 - k by omega]
  have hpred := kraft_modify_pred hne
  rw [openLeaf, kraft_modify_add 2 (by simpa using hk), List.length_modify]
  omega

theorem sum_openLeaf {cnt : List Nat} {k : Nat} (hk : k + 1 < cnt.length) (hne : cnt.getD k 0 ≠ 0) :
    (openLeaf cnt k).sum = cnt.sum + 1 := by
  have hpred := sum_modify_pred hne
  have hadd := sum_modify (cnt := cnt.modify k (· - 1)) (k := k + 1) (· + 2) (by simpa using hk)
  rw [openLeaf]
  omega

theorem le_openLeaf_getD {cnt : List Nat} {k j : Nat} (hkj : k < j) (hj : j < cnt.length) :
    cnt.getD j 0 ≤ (openLeaf cnt k).getD j 0 := by
  rw [openLeaf, getD_modify _ _ (by simpa using hj), getD_modify _ _ hj, if_neg (Nat.ne_of_lt hkj)]
  split <;> omega

/-- What each pass of the limiting loop keeps (R174): `u` symbols are counted, and the leaves above depth `M` alone do
not exceed the Kraft sum, so that an excess means a leaf at depth `M`. -/
structure LimitInv (M u : Nat) (cnt : List Nat) : Prop where
  length : cnt.length = M
  sum : cnt.sum = u
  above : kraft cnt ≤ 2 ^ M + cnt.getD (M - 1) 0

/-- With an excess there is a leaf above depth `M`: `u ≤ 2 ^ M` leaves at depth `M` alone make none (R171, R174). -/
theorem exists_used_above {M u : Nat} {cnt : List Nat} (hM : 1 ≤ M) (hlen : cnt.length = M) (hsum : cnt.sum = u)
    (hu : u ≤ 2 ^ M) (hover : 2 ^ M < kraft cnt) :
    ∃ k < M - 1, maxUsedLen 1 (cnt.take (M - 1)) = k + 1 ∧ cnt.getD k 0 ≠ 0 := by
  have hused : maxUsedLen 1 (cnt.take (M - 1)) ≠ 0 := by
    intro hnone
    have hzero : ∀ c ∈ cnt.take (M - 1), c = 0 := by
      intro c hc
      obtain ⟨k, hk, rfl⟩ := List.getElem_of_mem hc
      by_contra hne
      have := le_maxUsedLen (k := k) 1 (by rwa [List.getD_eq_getElem _ _ hk])
      omega
    obtain ⟨c, hc⟩ : ∃ c, cnt.drop (M - 1) = [c] := List.length_eq_one_iff.mp (by rw [List.length_drop]; omega)
    have hsplit : cnt = cnt.take (M - 1) ++ [c] := by rw [← hc, List.take_append_drop]
    have hkraft : kraft cnt = c := by
      rw [hsplit, kraft_append_singleton, kraft_eq_zero hzero, Nat.mul_zero, Nat.zero_add]
    have hle : c ≤ cnt.sum := List.le_sum_of_mem (by rw [hsplit]; simp)
    omega
  obtain ⟨k, hk, hmax, hne⟩ := maxUsedLen_used hused
  have hlt : k < M - 1 := lt_of_lt_of_le hk (List.length_take_le _ _)
  rw [getD_take_of_lt hlt] at hne
  exact ⟨k, hlt, by rw [hmax, Nat.add_comm], hne⟩

/-- One pass (R174): the Kraft sum falls by 1, the number of symbols stays. -/
theorem limitPass_spec {M u : Nat} {cnt : List Nat} (hM : 1 ≤ M) (hu : u ≤ 2 ^ M) (h : LimitInv M u cnt)
    (hover : 2 ^ M < kraft cnt) :
    LimitInv M u (limitPass M cnt) ∧ kraft (limitPass M cnt) + 1 = kraft cnt := by
  obtain ⟨hlen, hsum, habove⟩ := h
  obtain ⟨k, hk, hmax, hne⟩ := exists_used_above hM hlen hsum hu hover
  have hpass : limitPass M cnt = (openLeaf cnt k).modify (M - 1) (· - 1) := by
    simp only [limitPass, hmax, Nat.add_sub_cancel, openLeaf]
  have hlenO : (openLeaf cnt k).length = M := by rw [length_openLeaf, hlen]
  have hkraftO : kraft (openLeaf cnt k) = kraft cnt := kraft_openLeaf (by omega) hne
  have hsumO : (openLeaf cnt k).sum = cnt.sum + 1 := sum_openLeaf (by omega) hne
  have hlastO : cnt.getD (M - 1) 0 ≤ (openLeaf cnt k).getD (M - 1) 0 := le_openLeaf_getD hk (by omega)
  have hdeep : (openLeaf cnt k).getD (M - 1) 0 ≠ 0 := by omega
  have hkraft := kraft_modify_pred hdeep
  have hsum' := sum_modify_pred hdeep
  have hlast := getD_modify (cnt := openLeaf cnt k) (j := M - 1) (M - 1) (· - 1) (by omega)
  rw [hlenO, Nat.sub_self, Nat.pow_zero, ← hpass] at hkraft
  rw [← hpass] at hsum'
  rw [← hpass, if_pos rfl] at hlast
  exact ⟨⟨by rw [hpass, List.length_modify, hlenO], by omega, by omega⟩, by omega⟩

/-- The limited code is complete (R174). -/
theorem limitLoop_spec {M u excess : Nat} {cnt : List Nat} (hM : 1 ≤ M) (hu : u ≤ 2 ^ M) (h : LimitInv M u cnt)
    (hexcess : kraft cnt = 2 ^ M + excess) :
    LimitInv M u (limitLoop M excess cnt) ∧ kraft (limitLoop M excess cnt) = 2 ^ M := by
  induction excess generalizing cnt with
  | zero => exact ⟨h, hexcess⟩
  | succ k ih =>
    obtain ⟨hinv, hkraft⟩ := limitPass_spec hM hu h (by omega)
    exact ih hinv (by omega)

/-! ## The limited lengths -/

@[simp] theorem length_spreadLens (l : Nat) (cnt : List Nat) : (spreadLens l cnt).length = cnt.sum := by
  induction cnt generalizing l with
  | nil => rfl
  | cons c cs ih => simp [spreadLens, ih]

theorem mem_spreadLens {l n : Nat} {cnt : List Nat} (h : n ∈ spreadLens l cnt) : l ≤ n ∧ n < l + cnt.length := by
  induction cnt generalizing l with
  | nil => exact absurd h List.not_mem_nil
  | cons c cs ih =>
    rw [List.length_cons]
    rcases List.mem_append.mp h with hc | hcs
    · have := List.eq_of_mem_replicate hc
      omega
    · have := ih hcs
      omega

/-- The lengths given out weigh what their counts do. -/
theorem kraft_eq_sum_spreadLens {l M : Nat} {cnt : List Nat} (h : l + cnt.length = M + 1) :
    ((spreadLens l cnt).map fun n => 2 ^ (M - n)).sum = kraft cnt := by
  induction cnt generalizing l with
  | nil => rfl
  | cons c cs ih =>
    have hrest : l + 1 + cs.length = M + 1 := by rw [List.length_cons] at h; omega
    rw [spreadLens, List.map_append, List.sum_append, ih hrest, List.map_replicate, List.sum_replicate, kraft,
      smul_eq_mul, show M - l = cs.length by omega]

theorem insertByFreq_perm (x : Nat × Nat) (l : List (Nat × Nat)) : (insertByFreq x l).Perm (x :: l) := by
  induction l with
  | nil => exact .refl _
  | cons y ys ih =>
    rw [insertByFreq]
    split
    · exact .refl _
    · exact (ih.cons y).trans (.swap x y ys)

theorem symbolsByFreq_perm (freq : List Nat) : (symbolsByFreq freq).Perm (usedSymbols freq) := by
  have hpairs := foldr_perm_of_insert id insertByFreq_perm (usedPairs freq)
  rw [List.map_id] at hpairs
  exact hpairs.map _

/-- The Kraft sum of the counts of depths, those beyond `M` counted as `M` (R174). -/
theorem kraft_lenCounts_min {M : Nat} {depths : List (Nat × Nat)} (hM : 1 ≤ M) (hpos : ∀ e ∈ depths, 1 ≤ e.2) :
    kraft (lenCounts M (depths.map fun e => min e.2 M)) = pairsKraft M depths := by
  have hcoded : (depths.map fun e => min e.2 M).filter (· ≠ 0) = depths.map fun e => min e.2 M := by
    refine List.filter_eq_self.mpr fun l hl => ?_
    obtain ⟨e, he, rfl⟩ := List.mem_map.mp hl
    have := hpos e he
    exact decide_eq_true (by omega)
  have hle : ∀ l ∈ depths.map fun e => min e.2 M, l ≤ M := by
    intro l hl
    obtain ⟨e, -, rfl⟩ := List.mem_map.mp hl
    exact Nat.min_le_right _ _
  rw [kraft_lenCounts hle, hcoded, List.map_map, pairsKraft]
  refine congrArg List.sum (List.map_congr_left fun e _ => ?_)
  rw [Function.comp_apply, show M - min e.2 M = M - e.2 by omega]

/-- The leaves above depth `M` weigh no more than a whole tree, so the counts meet the invariant before the first pass
(R174). -/
theorem limitInv_lenCounts_min {M : Nat} {depths : List (Nat × Nat)} (hM : 1 ≤ M) (hpos : ∀ e ∈ depths, 1 ≤ e.2)
    (hle : pairsKraft M depths ≤ 2 ^ M + depths.countP fun e => decide (M < e.2)) :
    LimitInv M depths.length (lenCounts M (depths.map fun e => min e.2 M)) := by
  have hdeep : (depths.countP fun e => decide (M < e.2)) ≤ (depths.map fun e => min e.2 M).count M := by
    rw [List.count, List.countP_map]
    refine List.countP_mono_left fun e _ he => ?_
    have hlt := of_decide_eq_true he
    exact beq_of_eq (Nat.min_eq_right hlt.le)
  refine ⟨length_lenCounts _ _, ?_, ?_⟩
  · rw [sum_lenCounts, List.length_map]
    intro l hl
    obtain ⟨e, he, rfl⟩ := List.mem_map.mp hl
    have := hpos e he
    omega
  · rw [kraft_lenCounts_min hM hpos, lenCounts_getD _ (by omega), Nat.sub_add_cancel hM]
    omega

/-- The limited lengths, the most frequent symbols first (R174). -/
theorem limitLengths_spec {freq : List Nat} {M : Nat} {depths : List (Nat × Nat)} (hM : 1 ≤ M)
    (hu : freq.countP (· != 0) ≤ 2 ^ M)
    (hinv : LimitInv M (freq.countP (· != 0)) (lenCounts M (depths.map fun e => min e.2 M)))
    (hfull : 2 ^ M ≤ kraft (lenCounts M (depths.map fun e => min e.2 M))) :
    CodesUsed freq M (limitLengths freq M depths) ∧ pairsKraft M (limitLengths freq M depths) = 2 ^ M := by
  obtain ⟨⟨hlen, hsum, -⟩, hkraft⟩ := limitLoop_spec hM hu hinv (Nat.add_sub_of_le hfull).symm
  have hsame : (symbolsByFreq freq).length = (spreadLens 1 (limitLoop M
      (kraft (lenCounts M (depths.map fun e => min e.2 M)) - 2 ^ M)
      (lenCounts M (depths.map fun e => min e.2 M)))).length := by
    rw [length_spreadLens, hsum, (symbolsByFreq_perm freq).length_eq, length_usedSymbols]
  refine ⟨⟨?_, fun e he => ?_⟩, ?_⟩
  · rw [limitLengths, List.map_fst_zip hsame.le]
    exact symbolsByFreq_perm freq
  · have := mem_spreadLens (List.of_mem_zip he).2
    omega
  · have hsnd : pairsKraft M (limitLengths freq M depths) =
        (((limitLengths freq M depths).map (·.2)).map fun n => 2 ^ (M - n)).sum := by
      rw [List.map_map]
      rfl
    rw [hsnd, limitLengths, List.map_snd_zip hsame.ge, kraft_eq_sum_spreadLens (by omega), hkraft]

/-! ## `buildLengths` -/

/-- Two or more used symbols: the lengths are those of a complete code (R173, R174). -/
theorem buildLengths_of_two_le {freq : List Nat} {M : Nat} (hM : 1 ≤ M) (hu : freq.countP (· != 0) ≤ 2 ^ M)
    (htwo : 2 ≤ freq.countP (· != 0)) :
    ∃ pairs, buildLengths freq M = lensOfPairs freq.length pairs ∧ CodesUsed freq M pairs ∧
      pairsKraft M pairs = 2 ^ M := by
  obtain ⟨a, b, hdepths, hsymbols⟩ := treeDepths_eq_leafDepths htwo
  have hlo := le_pairsKraft_leafDepths M 0 (.node a b)
  have hhi := pairsKraft_leafDepths_le M 0 (.node a b)
  have hperm : ((treeDepths freq).map (·.1)).Perm (usedSymbols freq) := by
    rwa [hdepths, leafDepths_map_fst]
  have hlength : (treeDepths freq).length = freq.countP (· != 0) := by
    rw [← length_usedSymbols, ← hperm.length_eq, List.length_map]
  have hpos : ∀ e ∈ treeDepths freq, 1 ≤ e.2 := by
    intro e he
    rw [hdepths, leafDepths] at he
    exact (List.mem_append.mp he).elim le_leafDepths le_leafDepths
  rw [← hdepths, Nat.sub_zero] at hlo hhi
  rw [if_pos (Nat.zero_le M)] at hhi
  by_cases hall : (treeDepths freq).all fun e => decide (e.2 ≤ M)
  · have hle : ∀ e ∈ treeDepths freq, e.2 ≤ M := fun e he => of_decide_eq_true (List.all_eq_true.mp hall e he)
    have hnone : ((treeDepths freq).countP fun e => decide (M < e.2)) = 0 :=
      List.countP_eq_zero.mpr fun e he => by simpa using hle e he
    refine ⟨treeDepths freq, ?_, ⟨hperm, fun e he => ⟨hpos e he, hle e he⟩⟩, by omega⟩
    simp only [buildLengths, if_neg (show ¬ freq.countP (· != 0) = 0 by omega),
      if_neg (show ¬ freq.countP (· != 0) = 1 by omega), if_pos hall]
  · have hinv := limitInv_lenCounts_min hM hpos hhi
    rw [hlength] at hinv
    rw [← kraft_lenCounts_min hM hpos] at hlo
    refine ⟨limitLengths freq M (treeDepths freq), ?_, limitLengths_spec hM hu hinv hlo⟩
    simp only [buildLengths, if_neg (show ¬ freq.countP (· != 0) = 0 by omega),
      if_neg (show ¬ freq.countP (· != 0) = 1 by omega), if_neg hall]

/-- At most one used symbol: it has length 1 (R171). -/
theorem buildLengths_of_le_one {freq : List Nat} (M : Nat) (h : freq.countP (· != 0) ≤ 1) :
    buildLengths freq M = freq.map fun f => if f = 0 then 0 else 1 := by
  by_cases hzero : freq.countP (· != 0) = 0
  · have hunused : ∀ f ∈ freq, 0 = if f = 0 then 0 else 1 := by
      intro f hf
      have : f = 0 := by simpa using List.countP_eq_zero.mp hzero f hf
      rw [if_pos this]
    simp only [buildLengths, if_pos hzero]
    exact List.map_congr_left hunused
  · simp only [buildLengths, if_neg hzero, if_pos (show freq.countP (· != 0) = 1 by omega)]

/-- Length 1 for each used symbol: each weighs half of a complete code (R171). -/
theorem sum_weights_of_ones (freq : List Nat) (M : Nat) :
    (((freq.map fun f => if f = 0 then 0 else 1).filter (· ≠ 0)).map fun l => 2 ^ (M - l)).sum =
      freq.countP (· != 0) * 2 ^ (M - 1) := by
  induction freq with
  | nil => simp
  | cons f fs ih =>
    by_cases hf : f = 0
    · simpa [hf] using ih
    · have hone : (if f = 0 then 0 else 1) = 1 := if_neg hf
      rw [List.map_cons, hone, List.filter_cons_of_pos (by decide), List.map_cons, List.sum_cons, ih,
        List.countP_cons_of_pos (by simpa using hf), Nat.succ_mul, Nat.add_comm]

/-- Settles O8, by the number of used symbols: at most one, or the tree of two or more. -/
theorem builtLengthsMeetKraft : Obligations.BuiltLengthsMeetKraft := by
  intro freq M hMcases hu
  have hM : 1 ≤ M := by omega
  by_cases hone : freq.countP (· != 0) ≤ 1
  · rw [buildLengths_of_le_one M hone, sum_weights_of_ones]
    refine ⟨List.length_map _, fun y hy => ?_, ?_⟩
    · rw [List.getD_eq_getElem _ _ (by simpa using hy), List.getElem_map, List.getD_eq_getElem _ _ hy]
      split <;> omega
    · rcases Nat.le_one_iff_eq_zero_or_eq_one.mp hone with h | h <;> simp [h]
  · obtain ⟨pairs, hpairs, hcodes, hkraft⟩ := buildLengths_of_two_le hM hu (by omega)
    rw [hpairs, if_neg (by omega), if_neg (by omega), hcodes.kraft_eq]
    exact ⟨length_lensOfPairs _ _, fun y hy => hcodes.getD hy, hkraft⟩

end Sys2Proof.Machine

/-! PROOFS. The Block Encoder's decisions: run-length coding of the length tables, the frequencies, and the ranges of a
dynamic plan (spec 44_block_encoder R203, R206, R207, R209, R216, 30_encoding R88, R96). -/

namespace Sys2Proof.Machine

/-! ## Run-length items -/

/-- A code-length symbol with an extra value that fits its field (R88). -/
def ItemFits (e : Nat × Nat) : Prop := e.1 ≤ 18 ∧ e.2 < 2 ^ clExtra e.1

/-- After the lengths `known`, the items stand for exactly the lengths `lens`, and each of them fits (R88). -/
def ItemsFor (items : List (Nat × Nat)) (known lens : List Nat) : Prop :=
  expandItems items known = known ++ lens ∧ ∀ e ∈ items, ItemFits e

theorem expandItems_append (as bs : List (Nat × Nat)) (known : List Nat) :
    expandItems (as ++ bs) known = expandItems bs (expandItems as known) := by
  induction as generalizing known with
  | nil => rfl
  | cons a as ih => exact ih _

theorem ItemsFor.nil (known : List Nat) : ItemsFor [] known [] :=
  ⟨(List.append_nil known).symm, fun _ he => absurd he List.not_mem_nil⟩

theorem ItemsFor.append {as bs : List (Nat × Nat)} {known xs ys : List Nat} (ha : ItemsFor as known xs)
    (hb : ItemsFor bs (known ++ xs) ys) : ItemsFor (as ++ bs) known (xs ++ ys) := by
  obtain ⟨haexpand, hafits⟩ := ha
  obtain ⟨hbexpand, hbfits⟩ := hb
  refine ⟨?_, fun e he => (List.mem_append.mp he).elim (hafits e) (hbfits e)⟩
  rw [expandItems_append, haexpand, hbexpand, List.append_assoc]

/-- An item that stands for a run stands for the head of a longer run of the same value. -/
theorem ItemsFor.cons_run {item : Nat × Nat} {items : List (Nat × Nat)} {known : List Nat} {v k run : Nat}
    (hk : k ≤ run) (hitem : ItemsFor [item] known (List.replicate k v))
    (hitems : ItemsFor items (known ++ List.replicate k v) (List.replicate (run - k) v)) :
    ItemsFor (item :: items) known (List.replicate run v) := by
  have h := hitem.append hitems
  rwa [List.replicate_append_replicate, Nat.add_sub_cancel' hk] at h

/-- Symbols 0 to 15 stand for themselves (R88). -/
theorem itemsFor_length {v : Nat} (hv : v ≤ 15) (known : List Nat) : ItemsFor [(v, 0)] known [v] := by
  refine ⟨by simp [expandItems, hv], fun e he => ?_⟩
  rw [List.mem_singleton.mp he]
  exact ⟨hv.trans (by decide), Nat.two_pow_pos _⟩

theorem itemsFor_lengths {v : Nat} (hv : v ≤ 15) (n : Nat) (known : List Nat) :
    ItemsFor (List.replicate n (v, 0)) known (List.replicate n v) := by
  induction n generalizing known with
  | zero => exact .nil known
  | succ n ih => exact (itemsFor_length hv known).append (ih _)

/-- Symbol 16 repeats the last length 3 to 6 times (R88). -/
theorem itemsFor_rep16 {known : List Nat} {v k : Nat} (hlast : known.getLast? = some v) (hlo : 3 ≤ k) (hhi : k ≤ 6) :
    ItemsFor [(16, k - 3)] known (List.replicate k v) := by
  refine ⟨by simp [expandItems, hlast, Nat.add_sub_cancel' hlo], fun e he => ?_⟩
  rw [List.mem_singleton.mp he]
  exact ⟨show 16 ≤ 18 by decide, show k - 3 < 4 by omega⟩

/-- Symbol 17 stands for 3 to 10 zeros (R88). -/
theorem itemsFor_repz17 {k : Nat} (hlo : 3 ≤ k) (hhi : k ≤ 10) (known : List Nat) :
    ItemsFor [(17, k - 3)] known (List.replicate k 0) := by
  refine ⟨by simp [expandItems, Nat.add_sub_cancel' hlo], fun e he => ?_⟩
  rw [List.mem_singleton.mp he]
  exact ⟨show 17 ≤ 18 by decide, show k - 3 < 8 by omega⟩

/-- Symbol 18 stands for 11 to 138 zeros (R88). -/
theorem itemsFor_repz18 {k : Nat} (hlo : 11 ≤ k) (hhi : k ≤ 138) (known : List Nat) :
    ItemsFor [(18, k - 11)] known (List.replicate k 0) := by
  refine ⟨by simp [expandItems, Nat.add_sub_cancel' hlo], fun e he => ?_⟩
  rw [List.mem_singleton.mp he]
  exact ⟨show 18 ≤ 18 by decide, show k - 11 < 128 by omega⟩

/-- The zero part of `RLE` (R207): the bound on the passes is never reached. -/
theorem itemsFor_rleZeros {fuel run : Nat} (h : run ≤ fuel) (known : List Nat) :
    ItemsFor (rleZeros fuel run) known (List.replicate run 0) := by
  induction fuel generalizing run known with
  | zero =>
    obtain rfl := Nat.le_zero.mp h
    exact .nil known
  | succ fuel ih =>
    rw [rleZeros]
    split_ifs with h11 h3
    · exact (itemsFor_repz18 (by omega) (by omega) known).cons_run (Nat.min_le_left _ _) (ih (by omega) _)
    · exact itemsFor_repz17 h3 (by omega) known
    · exact itemsFor_lengths (by decide) run known

/-- The non-zero part of `RLE` (R207), which stands behind the value it repeats. -/
theorem itemsFor_rleRepeats {v fuel run : Nat} {known : List Nat} (hv : v ≤ 15) (h : run ≤ fuel)
    (hlast : known.getLast? = some v) : ItemsFor (rleRepeats v fuel run) known (List.replicate run v) := by
  induction fuel generalizing run known with
  | zero =>
    obtain rfl := Nat.le_zero.mp h
    exact .nil known
  | succ fuel ih =>
    rw [rleRepeats]
    split_ifs with h3
    · have hlast' : (known ++ List.replicate (min run 6) v).getLast? = some v := by
        rw [List.getLast?_append, List.getLast?_replicate, if_neg (by omega), Option.some_or]
      exact (itemsFor_rep16 hlast (by omega) (by omega)).cons_run (Nat.min_le_left _ _) (ih (by omega) hlast')
    · exact itemsFor_lengths hv run known

/-- One run (R207). -/
theorem itemsFor_rleRun {v : Nat} (hv : v ≤ 15) (n : Nat) (known : List Nat) :
    ItemsFor (rleRun v (n + 1)) known (List.replicate (n + 1) v) := by
  rw [rleRun]
  split
  · next hzero =>
    rw [hzero]
    exact itemsFor_rleZeros (Nat.le_succ _) known
  · exact (itemsFor_length hv known).append (itemsFor_rleRepeats hv (Nat.le_succ n) List.getLast?_concat)

/-- A list is the run of `v` at its front, then what `RLE` goes on with (R207). -/
theorem replicate_append_drop_takeWhile (v : Nat) (lens : List Nat) :
    List.replicate (lens.takeWhile (· == v)).length v ++ lens.drop (lens.takeWhile (· == v)).length = lens := by
  have hrun : lens.takeWhile (· == v) = List.replicate (lens.takeWhile (· == v)).length v :=
    List.eq_replicate_of_mem fun l hl => by simpa using List.mem_takeWhile_imp hl
  conv_rhs => rw [← List.take_append_drop (lens.takeWhile (· == v)).length lens]
  rw [← hrun]
  congr 1
  exact List.prefix_iff_eq_take.mp (List.takeWhile_prefix _)

theorem itemsFor_rleLoop {fuel : Nat} {lens : List Nat} (hlens : ∀ l ∈ lens, l ≤ 15) (h : lens.length ≤ fuel)
    (known : List Nat) : ItemsFor (rleLoop fuel lens) known lens := by
  induction fuel generalizing lens known with
  | zero =>
    obtain rfl := List.length_eq_zero_iff.mp (Nat.le_zero.mp h)
    exact .nil known
  | succ fuel ih =>
    cases lens with
    | nil => exact .nil known
    | cons v rest =>
      obtain ⟨hv, hrest⟩ := List.forall_mem_cons.mp hlens
      have hshort : (rest.drop (rest.takeWhile (· == v)).length).length ≤ fuel := by
        rw [List.length_cons] at h
        rw [List.length_drop]
        omega
      have hall := (itemsFor_rleRun hv (rest.takeWhile (· == v)).length known).append
        (ih (fun l hl => hrest l (List.mem_of_mem_drop hl)) hshort _)
      rwa [List.replicate_succ, List.cons_append, replicate_append_drop_takeWhile] at hall

/-- `RLE` (R207). -/
theorem itemsFor_rle {lens : List Nat} (hlens : ∀ l ∈ lens, l ≤ 15) (known : List Nat) :
    ItemsFor (rle lens) known lens := itemsFor_rleLoop hlens (Nat.le_refl _) known

/-- Settles O41: run by run, each item stands for its part of the run. -/
theorem runLengthItemsExpandBack : Obligations.RunLengthItemsExpandBack :=
  fun _ known hlens => itemsFor_rle hlens known

/-! ## Frequencies -/

@[simp] theorem length_frequencies (n : Nat) (symbols : List Nat) : (frequencies n symbols).length = n := by
  simp [frequencies]

/-- The symbols with a frequency are those that occur (R203). -/
theorem frequencies_getD_ne_zero {n y : Nat} {symbols : List Nat} (hy : y < n) :
    (frequencies n symbols).getD y 0 ≠ 0 ↔ y ∈ symbols := by
  simp [frequencies, hy]

/-- The index of a value in an ascending table lies in the table (R96). -/
theorem lastIndexLE_lt {table : List Nat} (h : table ≠ []) (v : Nat) : lastIndexLE table v < table.length := by
  have hcount : table.countP (· ≤ v) ≤ table.length := List.countP_le_length
  have hpos := List.length_pos_iff.mpr h
  rw [lastIndexLE]
  omega

/-- Every literal/length symbol of a token is in the alphabet (R91, R96). -/
theorem litLenSymbol_lt (t : Token) : litLenSymbol t < nLitLen := by
  cases t with
  | literal b => exact b.isLt.trans (by decide)
  | backref length distance =>
    have hindex : lenIndex length < 29 := lastIndexLE_lt (by decide) length
    show 257 + lenIndex length < 286
    omega

/-- Every distance symbol of a token is in the alphabet (R93, R96). -/
theorem distSymbol_lt {t : Token} {j : Nat} (h : distSymbol t = some j) : j < nDist := by
  cases t with
  | literal b => cases h
  | backref length distance =>
    cases h
    exact lastIndexLE_lt (by decide) distance

theorem fixedLitLens_getD_ne_zero {y : Nat} (hy : y < 288) : fixedLitLens.getD y 0 ≠ 0 := by
  rw [(fixedLit_code hy).1]
  split_ifs <;> decide

/-! ## The lengths of a block's symbols -/

/-- What `buildLengths` makes of frequencies, for both maximum lengths (R171, R176): a length for every symbol of the
alphabet, none above the maximum, and not 0 for a symbol that occurs. -/
theorem buildLengths_frequencies {n M : Nat} (hM : M = 15 ∨ M = 7) (hn : n ≤ 2 ^ M) (symbols : List Nat) :
    (buildLengths (frequencies n symbols) M).length = n ∧
      (∀ l ∈ buildLengths (frequencies n symbols) M, l ≤ M) ∧
      ∀ y ∈ symbols, y < n → (buildLengths (frequencies n symbols) M).getD y 0 ≠ 0 := by
  have hused : (frequencies n symbols).countP (· != 0) ≤ 2 ^ M :=
    List.countP_le_length.trans ((length_frequencies n symbols).trans_le hn)
  obtain ⟨hlength, hlens, -⟩ := builtLengthsMeetKraft _ M hM hused
  rw [length_frequencies] at hlength hlens
  refine ⟨hlength, fun l hl => ?_, fun y hmem hy => ?_⟩
  · obtain ⟨y, hy, rfl⟩ := List.getElem_of_mem hl
    rw [← List.getD_eq_getElem _ 0 hy]
    exact (hlens y (hlength ▸ hy)).1
  · exact mt (hlens y hy).2.mp ((frequencies_getD_ne_zero hy).mpr hmem)

theorem usedCount_le_length (lens : List Nat) : usedCount lens ≤ lens.length := by
  by_cases hzero : usedCount lens = 0
  · omega
  · obtain ⟨k, hk, hmax, -⟩ := maxUsedLen_used hzero
    rw [usedCount]
    omega

/-! ## The dynamic plan -/

theorem dynPlan_ll (toks : List Token) : (dynPlan toks).ll = buildLengths (litLenFreq toks) maxCodeLen := by
  simp only [dynPlan]

theorem dynPlan_dl (toks : List Token) : (dynPlan toks).dl = buildLengths (distFreq toks) maxCodeLen := by
  simp only [dynPlan]

theorem dynPlan_nlen (toks : List Token) : (dynPlan toks).nlen = max 257 (usedCount (dynPlan toks).ll) := by
  simp only [dynPlan]

theorem dynPlan_ndist (toks : List Token) : (dynPlan toks).ndist = max 1 (usedCount (dynPlan toks).dl) := by
  simp only [dynPlan]

theorem dynPlan_cls (toks : List Token) :
    (dynPlan toks).cls =
      rle ((dynPlan toks).ll.take (dynPlan toks).nlen) ++ rle ((dynPlan toks).dl.take (dynPlan toks).ndist) := by
  simp only [dynPlan]

theorem dynPlan_cl (toks : List Token) :
    (dynPlan toks).cl = buildLengths (frequencies nCl ((dynPlan toks).cls.map (·.1))) maxClCodeLen := by
  simp only [dynPlan]

theorem dynPlan_ncode (toks : List Token) :
    (dynPlan toks).ncode = max 4 (usedCount (clOrder.map fun y => (dynPlan toks).cl.getD y 0)) := by
  simp only [dynPlan]

theorem dynPlan_ll_spec (toks : List Token) :
    (dynPlan toks).ll.length = 286 ∧ (∀ l ∈ (dynPlan toks).ll, l ≤ 15) ∧
      ∀ y ∈ toks.map litLenSymbol ++ [256], y < 286 → (dynPlan toks).ll.getD y 0 ≠ 0 := by
  rw [dynPlan_ll]
  exact buildLengths_frequencies (.inl rfl) (by decide) _

theorem dynPlan_dl_spec (toks : List Token) :
    (dynPlan toks).dl.length = 30 ∧ (∀ l ∈ (dynPlan toks).dl, l ≤ 15) ∧
      ∀ j ∈ toks.filterMap distSymbol, j < 30 → (dynPlan toks).dl.getD j 0 ≠ 0 := by
  rw [dynPlan_dl]
  exact buildLengths_frequencies (.inl rfl) (by decide) _

theorem dynPlan_cl_spec (toks : List Token) :
    (∀ l ∈ (dynPlan toks).cl, l ≤ 7) ∧
      ∀ y ∈ (dynPlan toks).cls.map (·.1), y < 19 → (dynPlan toks).cl.getD y 0 ≠ 0 := by
  rw [dynPlan_cl]
  exact (buildLengths_frequencies (.inr rfl) (by decide) _).2

/-- The counts of a dynamic header lie in the ranges of their fields (R206, R209). -/
theorem dynPlan_nlen_range (toks : List Token) : 257 ≤ (dynPlan toks).nlen ∧ (dynPlan toks).nlen ≤ 286 := by
  have hused := usedCount_le_length (dynPlan toks).ll
  rw [(dynPlan_ll_spec toks).1] at hused
  rw [dynPlan_nlen]
  omega

theorem dynPlan_ndist_range (toks : List Token) : 1 ≤ (dynPlan toks).ndist ∧ (dynPlan toks).ndist ≤ 30 := by
  have hused := usedCount_le_length (dynPlan toks).dl
  rw [(dynPlan_dl_spec toks).1] at hused
  rw [dynPlan_ndist]
  omega

theorem dynPlan_ncode_range (toks : List Token) : 4 ≤ (dynPlan toks).ncode ∧ (dynPlan toks).ncode ≤ 19 := by
  have hused := usedCount_le_length (clOrder.map fun y => (dynPlan toks).cl.getD y 0)
  have hlength : (clOrder.map fun y => (dynPlan toks).cl.getD y 0).length = 19 := List.length_map _
  rw [dynPlan_ncode]
  omega

/-- Every run-length item of a dynamic header is one of the code-length alphabet (R207, R88). -/
theorem dynPlan_cls_fits (toks : List Token) : ∀ e ∈ (dynPlan toks).cls, ItemFits e := by
  obtain ⟨-, hll, -⟩ := dynPlan_ll_spec toks
  obtain ⟨-, hdl, -⟩ := dynPlan_dl_spec toks
  rw [dynPlan_cls]
  have hleft := (itemsFor_rle (fun l hl => hll l (List.mem_of_mem_take (i := (dynPlan toks).nlen) hl)) []).2
  have hright := (itemsFor_rle (fun l hl => hdl l (List.mem_of_mem_take (i := (dynPlan toks).ndist) hl)) []).2
  exact fun e he => (List.mem_append.mp he).elim (hleft e) (hright e)

/-- Settles O40: a symbol that is emitted occurs in the block, so its frequency, and with it its length, is not 0. -/
theorem emittedSymbolsHaveCodes : Obligations.EmittedSymbolsHaveCodes := by
  intro toks
  obtain ⟨-, hll, hllcode⟩ := dynPlan_ll_spec toks
  obtain ⟨-, hdl, hdlcode⟩ := dynPlan_dl_spec toks
  obtain ⟨hcl, hclcode⟩ := dynPlan_cl_spec toks
  refine ⟨dynPlan_nlen_range toks, dynPlan_ndist_range toks, dynPlan_ncode_range toks, hll, hdl, hcl, ?_, ?_, ?_, ?_⟩
  · intro t ht
    have hlt : litLenSymbol t < 286 := litLenSymbol_lt t
    exact ⟨Nat.le_of_lt_succ hlt, hllcode _ (List.mem_append_left _ (List.mem_map_of_mem ht)) hlt,
      fixedLitLens_getD_ne_zero (hlt.trans (by decide))⟩
  · intro t ht j hj
    have hlt : j < 30 := distSymbol_lt hj
    exact ⟨Nat.le_of_lt_succ hlt, hdlcode j (List.mem_filterMap.mpr ⟨t, ht, hj⟩) hlt⟩
  · exact hllcode 256 (List.mem_append_right _ List.mem_cons_self) (by decide)
  · intro e he
    obtain ⟨hsym, hextra⟩ := dynPlan_cls_fits toks e he
    exact ⟨hsym, hclcode _ (List.mem_map_of_mem he) (Nat.lt_succ_of_le hsym), hextra⟩

end Sys2Proof.Machine

/-! PROOFS. Block emission: the bits of each block type number exactly its cost, what a block adds to the output, and
the empty final block (spec 44_block_encoder R202 to R217, 47_commands R297). -/

namespace Sys2Proof.Machine

/-! ## How many bits a block has -/

@[simp] theorem length_codeBits (lens codes : List Nat) (sym : Nat) :
    (codeBits lens codes sym).length = lens.getD sym 0 := length_bitsMSB _ _

theorem length_tokenBits (ll llcode dl dcode : List Nat) (t : Token) :
    (tokenBits ll llcode dl dcode t).length = tokenCost ll dl t := by
  cases t with
  | literal b => exact length_codeBits ll llcode b.toNat
  | backref length distance =>
    simp only [tokenBits, tokenCost, List.length_append, length_codeBits, length_bitsLSB]

/-- `EmitTokens` writes `tokbits` bits (R205, R216). -/
theorem length_tokensBits (ll llcode dl dcode : List Nat) (toks : List Token) :
    (tokensBits ll llcode dl dcode toks).length = tokBits ll dl toks := by
  simp [tokensBits, tokBits, List.length_flatMap, length_tokenBits]

@[simp] theorem length_headerBits (final : Bool) (type : Nat) : (headerBits final type).length = 3 := by
  simp [headerBits]

/-- The three bits of a header: the final flag, then the type, low bit first (R202, R82). -/
theorem headerBits_eq (final : Bool) (type : Nat) :
    headerBits final type = [final, type.testBit 0, type.testBit 1] := by
  cases final <;> rfl

@[simp] theorem length_blockBytes (s : State) : (blockBytes s).length = s.blkBytes := by simp [blockBytes]

theorem length_storedBits (pos : Nat) (raw : List Byte) :
    (storedBits pos raw).length + 3 = storedCost pos raw.length := by
  simp only [storedBits, storedLenBits, storedCost, List.length_append, length_bitsLSB, length_bytesBits]
  omega

theorem length_fixedBits (toks : List Token) : (fixedBits toks).length + 3 = fixedCost toks := by
  rw [fixedBits, length_tokensBits, fixedCost, Nat.add_comm]

/-- The header of a dynamic block sends three bits for each of the `ncode` code-length-code lengths (R213). -/
theorem length_dynHeaderBits {d : DynPlan} (h : d.ncode ≤ 19) :
    (dynHeaderBits d).length = 14 + 3 * d.ncode + (d.cls.map fun e => d.cl.getD e.1 0 + clExtra e.1).sum := by
  have hsent : (clOrder.take d.ncode).length = d.ncode := by
    rw [List.length_take]
    exact Nat.min_eq_left h
  have hcl : ((clOrder.take d.ncode).flatMap fun y => bitsLSB (d.cl.getD y 0) 3).length = 3 * d.ncode := by
    simp only [List.length_flatMap, length_bitsLSB, List.map_const', List.sum_replicate, hsent, smul_eq_mul,
      Nat.mul_comm]
  simp only [dynHeaderBits, List.length_append, length_bitsLSB, hcl, List.length_flatMap, length_codeBits]

theorem length_dynBits {d : DynPlan} (h : d.ncode ≤ 19) (toks : List Token) :
    (dynBits d toks).length + 3 = dynCost d toks := by
  rw [dynBits, List.length_append, length_dynHeaderBits h, length_tokensBits, dynCost]
  omega

/-! ## What a block adds to the output -/

/-- The bits of the current block, header and payload (R202). -/
def blockBits (final : Bool) (s : State) : List Bool := headerBits final (blockType s) ++ payloadBits s (blockType s)

/-- The block adds as many bits as the cheapest of the three costs (R202, R211). -/
theorem length_blockBits (final : Bool) (s : State) :
    (blockBits final s).length =
      min (storedCost s.bitposOut s.blkBytes) (min (fixedCost s.tok) (dynCost (dynPlan s.tok) s.tok)) := by
  have hstored := length_storedBits s.bitposOut (blockBytes s)
  have hfixed := length_fixedBits s.tok
  have hdyn := length_dynBits (dynPlan_ncode_range s.tok).2 s.tok
  rw [length_blockBytes] at hstored
  rw [blockBits, List.length_append, length_headerBits, blockType, chooseType]
  split_ifs with h0 h1
  · show 3 + (storedBits s.bitposOut (blockBytes s)).length = _
    omega
  · show 3 + (fixedBits s.tok).length = _
    omega
  · show 3 + (dynBits (dynPlan s.tok) s.tok).length = _
    omega

/-- `EmitBlock` appends the bits of the block and closes it (R202): Deciding and Emitting read no state that differs. -/
theorem emitBlock_eq_putBitList (final : Bool) (s : State) :
    emitBlock final s =
      { putBitList (blockBits final s) s with
        tok := [], blkBytes := 0, estate := .accumulating, finalSent := s.finalSent || final } := rfl

theorem outBits_emitBlock (final : Bool) (s : State) : outBits (emitBlock final s) = outBits s ++ blockBits final s :=
  outBits_putBitList (blockBits final s) s

theorem emitBlock_bitposOut (final : Bool) (s : State) :
    (emitBlock final s).bitposOut = s.bitposOut + (blockBits final s).length := rfl

theorem emitBlock_sinkInv (final : Bool) {s : State} (h : s.SinkInv) : (emitBlock final s).SinkInv :=
  putBitList_sinkInv (blockBits final s) h

/-- Settles O38: the block is the header and the payload of the type whose cost is least, and each payload has as many
bits as its cost says. -/
theorem emitBlockAddsCheapestCost : Obligations.EmitBlockAddsCheapestCost := by
  rintro final s stored fixed dyn type rfl rfl rfl htype
  have hblock : type = blockType s := htype
  refine ⟨?_, ?_, emitBlock_frame final s⟩
  · rw [emitBlock_bitposOut, length_blockBits]
    rfl
  · rw [outBits_emitBlock, blockBits, headerBits_eq, hblock]
    rfl

/-! ## The empty final block -/

/-- With no token waiting, the fixed block is its header and the end-of-block code (R217). -/
theorem fixedBits_nil : fixedBits [] = List.replicate 7 false := by
  obtain ⟨hlen, hcode⟩ := fixedLit_code (y := 256) (by decide)
  show bitsMSB ((assignCanonicalCodes fixedLitLens).getD 256 0) (fixedLitLens.getD 256 0) = _
  rw [hlen, hcode]
  rfl

theorem fixedCost_nil : fixedCost [] = 10 := by
  rw [← length_fixedBits, fixedBits_nil]
  rfl

theorem lt_dynCost (d : DynPlan) (toks : List Token) : 10 < dynCost d toks := by
  rw [dynCost]
  omega

theorem le_storedCost (pos blkBytes : Nat) : 35 ≤ storedCost pos blkBytes := by
  rw [storedCost]
  omega

/-- An empty block is a fixed block wherever it starts (R217). -/
theorem blockType_of_empty {s : State} (htok : s.tok = []) : blockType s = 1 := by
  have hstored := le_storedCost s.bitposOut s.blkBytes
  have hdyn := lt_dynCost (dynPlan []) []
  rw [blockType, htok, chooseType, fixedCost_nil, if_neg (by omega), if_pos (by omega)]

theorem blockBits_of_empty {s : State} (htok : s.tok = []) :
    blockBits true s = [true, true, false] ++ List.replicate 7 false := by
  have hpayload : payloadBits s 1 = fixedBits s.tok := rfl
  rw [blockBits, blockType_of_empty htok, hpayload, htok, fixedBits_nil]
  rfl

theorem tokenise_of_empty (finishing : Bool) {s : State} (hla : s.la = []) : tokenise finishing s = s := by
  rw [tokenise, hla]
  rfl

/-- FINISH of a compress stream with no byte waiting (R297). -/
theorem exec_finish_of_empty {s : State} (hp : s.phase = .active) (hm : s.mode = .compress) (hla : s.la = []) :
    exec .finish s = .next (endCommand { alignOut (emitBlock true s) with phase := .finished }) := by
  show execFinish s = _
  simp only [execFinish, hp, hm, finishCompress, tokenise_of_empty true hla]

/-- The end of FINISH leaves the output bit stream alone (R297). -/
theorem outBits_finishing (s : State) : outBits (endCommand { s with phase := .finished }) = outBits s := rfl

/-- At a byte boundary the empty final block and its padding are the two bytes `03 00` (R217). -/
theorem alignOut_emitBlock_out {s : State} (hs : s.SinkInv) (htok : s.tok = []) (honb : s.onb = 0) :
    (alignOut (emitBlock true s)).out = s.out ++ [0x03, 0x00] := by
  have hpos : s.bitposOut % 8 = 0 := by rw [hs.1, honb]; rfl
  have hacc : s.oacc = 0 := (hs.aligned hpos).2
  have hpad : alignPad (emitBlock true s) = 6 := by
    rw [alignPad_eq (emitBlock_sinkInv true hs).1, emitBlock_bitposOut, blockBits_of_empty htok]
    simp only [List.length_append, List.length_cons, List.length_nil, List.length_replicate]
    omega
  have hbytes : (alignOut (emitBlock true s)).out = (putBitList (blockBits true s ++ bitsLSB 0 6) s).out := by
    rw [putBitList_append, alignOut, hpad]
    rfl
  rw [hbytes, blockBits_of_empty htok, putBitList_out, hacc, honb]
  rfl

/-- Settles O39: the fixed cost is below every other cost, so FINISH emits the fixed block and pads it. -/
theorem emptyFinalBlockIsFixed : Obligations.EmptyFinalBlockIsFixed := by
  intro s hp hm hs hla htok hblk
  have hempty : fixedCost s.tok = 10 := htok ▸ fixedCost_nil
  have hbits := blockBits_of_empty htok
  have hlength : (emitBlock true s).bitposOut = s.bitposOut + 10 := by
    rw [emitBlock_bitposOut, hbits]
    rfl
  refine ⟨hempty, le_storedCost _ _, lt_dynCost _ _, fun honb => ?_, _, exec_finish_of_empty hp hm hla, ?_,
    alignOut_emitBlock_out hs htok⟩
  · have hpos : s.bitposOut % 8 = 0 := by rw [hs.1, honb]; rfl
    rw [storedCost, storedPad, hblk]
    omega
  · obtain ⟨-, -, -, hpadded, -⟩ := alignOutPadsWithZeros _ (emitBlock_sinkInv true hs)
    rw [outBits_emitBlock, hbits, hlength, ← List.append_assoc] at hpadded
    rw [outBits_finishing, hpadded]

end Sys2Proof.Machine

/-! PROOFS. The stream elements that complete or fault on their own, and the step that runs a fetched element (spec
45_inflate R230, R231, R236, R255 to R261). -/

namespace Sys2Proof.Machine

/-- Settles O26: each header by its definition. -/
theorem blockHeadersSelectPayload : Obligations.BlockHeadersSelectPayload :=
  fun _ _ => ⟨rfl, rfl, rfl, rfl⟩

/-- A byte of a decompress stream goes to the window, the checksum and the output (R140, R280). -/
theorem windowAppend_of_decompress (b : Byte) {s : State} (hm : s.mode = .decompress) :
    windowAppend b s = { s with
      win := winWrite s.win s.wpos b
      wpos := (s.wpos + 1) % wsize s.params
      whave := min (s.whave + 1) (wsize s.params)
      wtotal := s.wtotal + 1
      s1 := .ofNat 16 ((s.s1.toNat + b.toNat) % adlerBase)
      s2 := .ofNat 16 ((s.s2.toNat + (s.s1.toNat + b.toNat) % adlerBase) % adlerBase)
      out := s.out ++ [b]
      totalOut := s.totalOut + 1 } := if_pos hm

theorem literal_of_fits {b : Byte} {s : State} (h : s.totalOut + 1 ≤ s.outLimit.toNat) :
    literal b s = windowAppend b (commit s) := if_neg (by simpa [overLimit] using h)

theorem literal_of_overLimit {b : Byte} {s : State} (h : s.outLimit.toNat < s.totalOut + 1) :
    literal b s = raise .outputLimitExceeded s := if_pos (decide_eq_true h)

/-- Every row of the literals is the same operation (R255). -/
theorem exec_of_mem_literals {b : Byte} {i : Instr} {s : State}
    (hi : i ∈ ([.lit000_127 b, .lit128_143 b, .lit144_159 b, .lit160_191 b, .lit192_255 b] : List Instr)) :
    exec i s = .next (literal b s) := by
  simp only [List.mem_cons, List.not_mem_nil, or_false] at hi
  rcases hi with rfl | rfl | rfl | rfl | rfl <;> rfl

/-- Settles O27: each row is a literal, which either goes to the window or is refused by the cap. -/
theorem literalsAppendOneByte : Obligations.LiteralsAppendOneByte := by
  intro b s hm i hi
  refine ⟨fun hfits => ?_, fun hover => ?_⟩
  · rw [exec_of_mem_literals hi, literal_of_fits hfits, windowAppend_of_decompress b (s := commit s) hm]
    rfl
  · rw [exec_of_mem_literals hi, literal_of_overLimit hover]
    rfl

/-- Settles O28. -/
theorem endOfBlockEndsBlock : Obligations.EndOfBlockEndsBlock := by
  intro s
  have heob : exec .eob s = .next { commit s with dstate := if s.bfinal then .done else .hdr } := rfl
  refine ⟨fun hfinal => ?_, fun hmore => ?_⟩
  · rw [heob, hfinal]
    rfl
  · rw [heob, hmore]
    rfl

/-- Settles O32: both rows raise, and what `raise` records is the cause and the start of the step. -/
theorem invalidCodePointsFault : Obligations.InvalidCodePointsFault := fun _ _ => ⟨rfl, rfl⟩

/-- A fetched element whose execution does not wait for a distance symbol is the transition (R230). -/
theorem decoderStep_of_element {run : Instr → State → Host.Outcome State Fault Refusal} {s t : State} {i : Instr}
    (hf : fetchElement s = some (.element i t)) (hd : ∀ u, run i t = .next u → distanceHolds u = false) :
    decoderStep run s = some (run i t) := by
  simp only [decoderStep, hf, runFetch, Option.bind_some, wholeElement]
  cases ho : run i t with
  | next u => simp only [hd u ho, Bool.false_eq_true, if_false]
  | fault r | refused r => rfl

/-- Settles O45: the step is the decoder's transition, which is the element's execution. -/
theorem stepRunsFetchedElement : Obligations.StepRunsFetchedElement := by
  intro s t i hq hdec hf hd
  rw [step_decoding hq hdec, decoderStep_of_element hf hd, Option.getD_some]

end Sys2Proof.Machine

/-! PROOFS. The decoder's steps that are no row of the opcode table: the header and the bytes of a stored block, the
counts and the code-length code of a dynamic header (spec 45_inflate R233, R234, R240, R242, R244). -/

namespace Sys2Proof.Machine

/-! ## What a step at a boundary reads and leaves -/

theorem unread_of_boundary {s : State} (h : s.AtBoundary) : unread s = s.inq := by
  rw [unread, h.1, List.drop_zero]

/-- A step from a boundary that completes consumes the bits it has read (R230). -/
theorem commit_advance_of_boundary (n : Nat) {s : State} (h : s.AtBoundary) :
    commit (advance n s) = { s with inq := s.inq.drop n, bitposIn := s.bitposIn + n } := by
  obtain ⟨hcursor, hpend⟩ := h
  simp only [commit, advance, hcursor, Nat.zero_add, hpend.symm]

/-- A fault of a step from a boundary leaves nothing but the record (R325). -/
theorem raise_of_boundary {c : Cause} {s : State} (h : s.AtBoundary) (hpos : c.hasPos = true) :
    raise c s = { s with err := some c, errPos := s.bitposIn, phase := .fault } := by
  rw [raise, rollback_of_boundary h, if_pos hpos]

/-- Where no element of the opcode table is next, the transition is one of the plain steps (R230). -/
theorem decoderStep_of_plain {run : Instr → State → Host.Outcome State Fault Refusal} {s : State}
    (hf : fetchElement s = none) : decoderStep run s = (plainStep s).map .next := by
  rw [decoderStep, hf]

theorem step_of_plain {s t : State} (hq : s.hostq = []) (hdec : decoding s = true) (hf : fetchElement s = none)
    (hp : plainStep s = some t) : step s = .next t := by
  rw [step_decoding hq hdec, decoderStep_of_plain hf, hp]
  rfl

theorem step_of_plain_hold {s : State} (hq : s.hostq = []) (hdec : decoding s = true) (hb : s.AtBoundary)
    (hf : fetchElement s = none) (hp : plainStep s = none) : step s = .next s :=
  step_of_hold hq hdec hb (by rw [decoderStep_of_plain hf, hp]; rfl)

/-! ## The header of a stored block -/

theorem fetchElement_storedLen {s : State} (hd : s.dstate = .storedLen) : fetchElement s = none := by
  simp only [fetchElement, hd]

theorem plainStep_storedLen {s : State} (hd : s.dstate = .storedLen) : plainStep s = storedLenStep s := by
  simp only [plainStep, hd]

theorem storedLenStep_of_short {s : State} (hb : s.AtBoundary) (h : s.inq.length < alignInPad s + 32) :
    storedLenStep s = none := by
  have hshort : peekBits 16 ((unread s).drop (alignInPad s + 16)) = none := by
    rw [peekBits_eq_none_iff, List.length_drop, unread_of_boundary hb]
    omega
  unfold storedLenStep
  split
  · next hsecond => rw [hshort] at hsecond; cases hsecond
  · rfl

/-- The two fields of a stored header are read behind the padding (R125, R233). -/
theorem storedLenStep_of_fields {s : State} {pad rest : List Bool} {len nlen : Nat} (hb : s.AtBoundary)
    (hpad : pad.length = alignInPad s) (hlen : len < 2 ^ 16) (hnlen : nlen < 2 ^ 16)
    (hbits : s.inq = pad ++ bitsLSB len 16 ++ bitsLSB nlen 16 ++ rest) :
    storedLenStep s =
      if nlen ≠ 0xFFFF - len then some (raise .storedLenCheck s)
      else if overLimit len s then some (raise .outputLimitExceeded s)
      else
        let t := { commit (advance (alignInPad s + 32) s) with rem := .ofNat 16 len }
        some (if len = 0 then endOfBlock t else { t with dstate := .storedCopy }) := by
  have hfirst : peekBits 16 (s.inq.drop (alignInPad s)) = some len := by
    rw [hbits, List.append_assoc, List.append_assoc, List.drop_left' hpad, peekBits_bitsLSB_append,
      Nat.mod_eq_of_lt hlen]
  have hsecond : peekBits 16 (s.inq.drop (alignInPad s + 16)) = some nlen := by
    rw [hbits, List.append_assoc, List.drop_left' (by simp [hpad]), peekBits_bitsLSB_append, Nat.mod_eq_of_lt hnlen]
  simp only [storedLenStep, unread_of_boundary hb, hfirst, hsecond]

/-- The state after the header of a stored block (R233, R235). -/
theorem storedLenStep_of_accepted {s : State} {pad rest : List Bool} {len : Nat} (hb : s.AtBoundary)
    (hpad : pad.length = alignInPad s) (hlen : len < 2 ^ 16)
    (hbits : s.inq = pad ++ bitsLSB len 16 ++ bitsLSB (0xFFFF - len) 16 ++ rest)
    (hcap : s.totalOut + len ≤ s.outLimit.toNat) :
    storedLenStep s = some { s with
      inq := rest
      bitposIn := s.bitposIn + pad.length + 32
      rem := .ofNat 16 len
      dstate := if len ≠ 0 then .storedCopy else if s.bfinal then .done else .hdr } := by
  have hunder : overLimit len s = false := decide_eq_false (by omega)
  have hrest : s.inq.drop (alignInPad s + 32) = rest := by
    rw [hbits, List.drop_left' (by simp [hpad])]
  rw [storedLenStep_of_fields hb hpad hlen (by omega) hbits, if_neg (fun hne => hne rfl), hunder,
    if_neg Bool.false_ne_true, commit_advance_of_boundary _ hb, hrest, hpad, Nat.add_assoc]
  by_cases hzero : len = 0 <;> simp [hzero, endOfBlock]

/-- Settles O47: the step of a stored header reads its two fields behind the padding; both tests come before anything
is consumed. -/
theorem storedLengthStep : Obligations.StoredLengthStep := by
  intro s pad rest len nlen hq hdec hb hd hpad hlen hnlen
  have hf := fetchElement_storedLen hd
  have hplain := plainStep_storedLen hd
  refine ⟨fun hshort => ?_, fun hbits => ⟨fun hne => ?_, fun heq hcap => ?_, fun heq hcap => ?_⟩⟩
  · rw [hpad] at hshort
    exact step_of_plain_hold hq hdec hb hf (hplain.trans (storedLenStep_of_short hb hshort))
  · refine step_of_plain hq hdec hf (hplain.trans ?_)
    rw [storedLenStep_of_fields hb hpad hlen hnlen hbits, if_pos hne, raise_of_boundary hb rfl]
  · have hover : overLimit len s = true := decide_eq_true hcap
    refine step_of_plain hq hdec hf (hplain.trans ?_)
    rw [storedLenStep_of_fields hb hpad hlen hnlen hbits, if_neg (fun hne => hne heq), if_pos hover,
      raise_of_boundary hb rfl]
  · subst heq
    exact step_of_plain hq hdec hf (hplain.trans (storedLenStep_of_accepted hb hpad hlen hbits hcap))

/-! ## A byte of a stored block -/

theorem fetchElement_storedCopy {s : State} (hd : s.dstate = .storedCopy) : fetchElement s = none := by
  simp only [fetchElement, hd]

theorem plainStep_storedCopy {s : State} (hd : s.dstate = .storedCopy) : plainStep s = storedCopyStep s := by
  simp only [plainStep, hd]

theorem storedCopyStep_of_short {s : State} (hb : s.AtBoundary) (h : s.inq.length < 8) : storedCopyStep s = none := by
  simp only [storedCopyStep, unread_of_boundary hb, peekBits_eq_none_iff.mpr h]

/-- A byte of a stored block is taken, and the block ends with its last one (R234, R235). -/
theorem storedCopyStep_of_byte {s : State} {b : Byte} {rest : List Bool} (hb : s.AtBoundary)
    (hbits : s.inq = byteBits b ++ rest) :
    storedCopyStep s =
      some (if s.rem = 1 then endOfBlock (storedByteTaken b (advance 8 s)) else storedByteTaken b (advance 8 s)) := by
  have hread : peekBits 8 (unread s) = some b.toNat := by
    rw [unread_of_boundary hb, hbits, byteBits, peekBits_bitsLSB_append, Nat.mod_eq_of_lt b.isLt]
  have hbyte : BitVec.ofNat 8 b.toNat = b := by rw [BitVec.ofNat_toNat, BitVec.setWidth_eq]
  have hone : s.rem - 1 = 0 ↔ s.rem = 1 := sub_eq_zero
  have hrem : (windowAppend b (commit (advance 8 s))).rem = s.rem := by
    rw [windowAppend_rem, commit_rem, advance_rem]
  unfold storedCopyStep
  rw [hread]
  dsimp only
  rw [hbyte, hrem]
  exact congrArg some (if_congr hone rfl rfl)

/-- What taking a byte of a stored block leaves (R234). -/
theorem storedByteTaken_of_boundary (b : Byte) {s : State} (hb : s.AtBoundary) (hm : s.mode = .decompress) :
    storedByteTaken b (advance 8 s) = { s with
      inq := s.inq.drop 8
      bitposIn := s.bitposIn + 8
      win := winWrite s.win s.wpos b
      wpos := (s.wpos + 1) % wsize s.params
      whave := min (s.whave + 1) (wsize s.params)
      wtotal := s.wtotal + 1
      s1 := .ofNat 16 ((s.s1.toNat + b.toNat) % adlerBase)
      s2 := .ofNat 16 ((s.s2.toNat + (s.s1.toNat + b.toNat) % adlerBase) % adlerBase)
      out := s.out ++ [b]
      totalOut := s.totalOut + 1
      rem := s.rem - 1 } := by
  have happend := windowAppend_of_decompress b (s := commit (advance 8 s)) hm
  rw [commit_advance_of_boundary 8 hb] at happend
  rw [storedByteTaken, commit_advance_of_boundary 8 hb, happend]
  rfl

/-- Settles O48: the byte is taken, and the count decides whether the block ends with it. -/
theorem storedCopyStep_obligation : Obligations.StoredCopyStep := by
  intro s b rest hq hdec hb hd
  have hf := fetchElement_storedCopy hd
  have hplain := plainStep_storedCopy hd
  obtain ⟨hm, -, -⟩ := decoding_iff.mp hdec
  refine ⟨fun hshort => step_of_plain_hold hq hdec hb hf (hplain.trans (storedCopyStep_of_short hb hshort)),
    fun hbits => step_of_plain hq hdec hf (hplain.trans ?_)⟩
  have hrest : s.inq.drop 8 = rest := by rw [hbits, List.drop_left' (length_bitsLSB _ _)]
  rw [storedCopyStep_of_byte hb hbits, storedByteTaken_of_boundary b hb hm, hrest]
  by_cases hlast : s.rem = 1
  · rw [if_pos hlast, if_neg (fun hne => hne hlast)]
    rfl
  · rw [if_neg hlast, if_pos hlast, ← hd]
    rfl

/-! ## The counts of a dynamic header -/

theorem fetchElement_dynHdr {s : State} (hd : s.dstate = .dynHdr) : fetchElement s = none := by
  simp only [fetchElement, hd]

theorem plainStep_dynHdr {s : State} (hd : s.dstate = .dynHdr) : plainStep s = dynHdrStep s := by
  simp only [plainStep, hd]

theorem dynHdrStep_of_short {s : State} (hb : s.AtBoundary) (h : s.inq.length < 14) : dynHdrStep s = none := by
  simp only [dynHdrStep, unread_of_boundary hb, peekBits_eq_none_iff.mpr h]

/-- Two adjacent fields are one wider field (R61). -/
theorem bitsLSB_append_bitsLSB {u m : Nat} (hu : u < 2 ^ m) (v n : Nat) :
    bitsLSB u m ++ bitsLSB v n = bitsLSB (u + 2 ^ m * v) (m + n) := by
  have hlow : bitsLSB (u + 2 ^ m * v) m = bitsLSB u m :=
    List.map_congr_left fun i hi => by
      rw [Nat.add_comm, Nat.testBit_two_pow_mul_add _ hu, if_pos (List.mem_range.mp hi)]
  rw [bitsLSB_append, hlow, Nat.add_mul_div_left _ _ (Nat.two_pow_pos m), Nat.div_eq_of_lt hu, Nat.zero_add]

/-- The three counts of a dynamic header as one field of 14 bits (R240). -/
theorem peekBits_counts {hlit hdist hclen : Nat} (hl : hlit < 2 ^ 5) (hd : hdist < 2 ^ 5) (hc : hclen < 2 ^ 4)
    (rest : List Bool) :
    ∃ v, peekBits 14 (bitsLSB hlit 5 ++ bitsLSB hdist 5 ++ bitsLSB hclen 4 ++ rest) = some v ∧
      v % 2 ^ 5 = hlit ∧ v / 2 ^ 5 % 2 ^ 5 = hdist ∧ v / 2 ^ 10 % 2 ^ 4 = hclen := by
  refine ⟨(hlit + 2 ^ 5 * (hdist + 2 ^ 5 * hclen)) % 2 ^ 14, ?_, by omega, by omega, by omega⟩
  rw [List.append_assoc (bitsLSB hlit 5), bitsLSB_append_bitsLSB hd, bitsLSB_append_bitsLSB hl]
  exact peekBits_bitsLSB_append _ 14 rest

theorem dynHdrStep_of_tooMany {s : State} {hlit hdist hclen : Nat} {rest : List Bool} (hb : s.AtBoundary)
    (hl : hlit < 2 ^ 5) (hd : hdist < 2 ^ 5) (hc : hclen < 2 ^ 4)
    (hbits : s.inq = bitsLSB hlit 5 ++ bitsLSB hdist 5 ++ bitsLSB hclen 4 ++ rest)
    (hmany : 286 < hlit + 257 ∨ 30 < hdist + 1) : dynHdrStep s = some (raise .tooManyCodes s) := by
  obtain ⟨v, hread, hlv, hdv, hcv⟩ := peekBits_counts hl hd hc rest
  simp only [dynHdrStep, unread_of_boundary hb, hbits, hread, hlv, hdv, nLitLen, nDist, if_pos hmany]

theorem dynHdrStep_of_fits {s : State} {hlit hdist hclen : Nat} {rest : List Bool} (hb : s.AtBoundary)
    (hl : hlit + 257 ≤ 286) (hd : hdist + 1 ≤ 30) (hc : hclen < 2 ^ 4)
    (hbits : s.inq = bitsLSB hlit 5 ++ bitsLSB hdist 5 ++ bitsLSB hclen 4 ++ rest) :
    dynHdrStep s = some { s with
      inq := rest
      bitposIn := s.bitposIn + 14
      nlen := .ofNat 9 (hlit + 257)
      ndist := .ofNat 6 (hdist + 1)
      ncode := .ofNat 5 (hclen + 4)
      cll := Vector.replicate 19 0
      idx := 0
      dstate := .dynCl } := by
  obtain ⟨v, hread, hlv, hdv, hcv⟩ := peekBits_counts (show hlit < 2 ^ 5 by omega) (show hdist < 2 ^ 5 by omega) hc rest
  have hfits : ¬ (286 < hlit + 257 ∨ 30 < hdist + 1) := by omega
  have hrest : s.inq.drop 14 = rest := by rw [hbits, List.drop_left' (by simp)]
  rw [← hbits] at hread
  simp only [dynHdrStep, unread_of_boundary hb, hread, hlv, hdv, hcv, nLitLen, nDist, if_neg hfits,
    commit_advance_of_boundary 14 hb, hrest]

/-- Settles O49: the 14 bits are read as one field, whose parts are the three counts. -/
theorem dynamicCountsStep : Obligations.DynamicCountsStep := by
  intro s hlit hdist hclen rest hq hdec hb hd hl hdl hc
  have hf := fetchElement_dynHdr hd
  have hplain := plainStep_dynHdr hd
  refine ⟨fun hshort => step_of_plain_hold hq hdec hb hf (hplain.trans (dynHdrStep_of_short hb hshort)),
    fun hbits => ⟨fun hmany => step_of_plain hq hdec hf (hplain.trans ?_),
      fun hl' hd' => step_of_plain hq hdec hf (hplain.trans (dynHdrStep_of_fits hb hl' hd' hc hbits))⟩⟩
  rw [dynHdrStep_of_tooMany hb hl hdl hc hbits hmany, raise_of_boundary hb rfl]

/-! ## The code-length code -/

theorem fetchElement_dynCl {s : State} (hd : s.dstate = .dynCl) : fetchElement s = none := by
  simp only [fetchElement, hd]

theorem plainStep_dynCl {s : State} (hd : s.dstate = .dynCl) : plainStep s = dynClStep s := by
  simp only [plainStep, hd]

theorem dynClStep_of_short {s : State} (hb : s.AtBoundary) (h : s.inq.length < 3) : dynClStep s = none := by
  simp only [dynClStep, unread_of_boundary hb, peekBits_eq_none_iff.mpr h]

/-- The lengths of the code-length code with the next one in its place (R87, R242). -/
def placedLength (v : Nat) (s : State) : Vector (BitVec 3) 19 :=
  s.cll.setIfInBounds (clOrder.getD s.idx.toNat 0) (.ofNat 3 v)

/-- The number of the next code-length-code length is the last one exactly where the counts say so (R244). -/
theorem idx_succ_eq_ncode_iff {s : State} (hidx : s.idx.toNat < 19) :
    s.idx + 1 = s.ncode ↔ s.idx.toNat + 1 = s.ncode.toNat := by
  have hsucc : (s.idx + 1).toNat = s.idx.toNat + 1 := by
    show (s.idx.toNat + 1) % 2 ^ 5 = s.idx.toNat + 1
    omega
  rw [← hsucc]
  exact ⟨congrArg BitVec.toNat, BitVec.eq_of_toNat_eq⟩

/-- The state with the next length of the code-length code in its place (R242). -/
def lengthPlaced (v : Nat) (s : State) : State :=
  { s with inq := s.inq.drop 3, bitposIn := s.bitposIn + 3, cll := placedLength v s, idx := s.idx + 1 }

/-- The next length of the code-length code goes to its place in the permuted order (R87, R242), and after the last
one the table is built (R244). -/
theorem dynClStep_of_field {s : State} {v : Nat} {rest : List Bool} (hb : s.AtBoundary) (hidx : s.idx.toNat < 19)
    (hv : v < 2 ^ 3) (hbits : s.inq = bitsLSB v 3 ++ rest) :
    (s.idx.toNat + 1 ≠ s.ncode.toNat → dynClStep s = some (lengthPlaced v s)) ∧
      (s.idx.toNat + 1 = s.ncode.toNat → buildDecodeTable ((placedLength v s).toList.map BitVec.toNat) = none →
        dynClStep s = some (raise .oversubscribed s)) ∧
      ∀ T, s.idx.toNat + 1 = s.ncode.toNat → buildDecodeTable ((placedLength v s).toList.map BitVec.toNat) = some T →
        dynClStep s = some { lengthPlaced v s with clt := T, lens := [], dstate := .dynLens } := by
  have hread : peekBits 3 (unread s) = some v := by
    rw [unread_of_boundary hb, hbits, peekBits_bitsLSB_append, Nat.mod_eq_of_lt hv]
  have hplace : s.cll.setIfInBounds (clOrder.getD s.idx.toNat 19) (.ofNat 3 v) = placedLength v s := by
    have hlt : s.idx.toNat < clOrder.length := hidx
    rw [placedLength, List.getD_eq_getElem _ _ hlt, List.getD_eq_getElem _ _ hlt]
  unfold dynClStep
  rw [hread, commit_advance_of_boundary 3 hb]
  dsimp only
  rw [hplace]
  have hiff := idx_succ_eq_ncode_iff hidx
  exact ⟨fun hmore => if_neg (mt hiff.mp hmore), fun hlast hT => by rw [if_pos (hiff.mpr hlast), hT],
    fun T hlast hT => by rw [if_pos (hiff.mpr hlast), hT]; rfl⟩

/-- Settles O50. -/
theorem codeLengthCodeStep : Obligations.CodeLengthCodeStep := by
  intro s v rest cll hq hdec hb hd hlt h19 hv hcll
  have hf := fetchElement_dynCl hd
  have hplain := plainStep_dynCl hd
  have hplace : placedLength v s = cll := hcll.symm
  refine ⟨fun hshort => step_of_plain_hold hq hdec hb hf (hplain.trans (dynClStep_of_short hb hshort)),
    fun hbits => ?_⟩
  have hrest : s.inq.drop 3 = rest := by rw [hbits, List.drop_left' (length_bitsLSB v 3)]
  have hplaced : lengthPlaced v s =
      { s with inq := rest, bitposIn := s.bitposIn + 3, cll := cll, idx := s.idx + 1 } := by
    rw [lengthPlaced, hrest, hplace]
  obtain ⟨hmore, hover, hbuilt⟩ := dynClStep_of_field hb (by omega) hv hbits
  rw [hplace] at hover hbuilt
  rw [hplaced] at hmore hbuilt
  refine ⟨fun hlt' => step_of_plain hq hdec hf (hplain.trans (hmore (by omega))), fun hlast hT => ?_,
    fun T hlast hT => step_of_plain hq hdec hf (hplain.trans (hbuilt T hlast hT))⟩
  rw [step_of_plain hq hdec hf (hplain.trans (hover hlast hT)), raise_of_boundary hb rfl]

end Sys2Proof.Machine

/-! PROOFS. The code-length items of a dynamic header and the end of the header (spec 30_encoding R88, 45_inflate R246,
R250, R252). -/

namespace Sys2Proof.Machine

/-! ## A run of lengths -/

theorem appendLengths_of_more {v : BitVec 4} {n : Nat} {s : State}
    (h : s.lens.length + n < s.nlen.toNat + s.ndist.toNat) :
    appendLengths v n s = { commit s with lens := s.lens ++ List.replicate n v } := by
  have hfit : ¬ s.nlen.toNat + s.ndist.toNat < s.nl + n := by rw [State.nl]; omega
  have hmore : ¬ (s.lens ++ List.replicate n v).length = s.nlen.toNat + s.ndist.toNat := by
    rw [List.length_append, List.length_replicate]; omega
  rw [appendLengths, if_neg hfit]
  exact if_neg hmore

theorem appendLengths_of_overrun {v : BitVec 4} {n : Nat} {s : State}
    (h : s.nlen.toNat + s.ndist.toNat < s.lens.length + n) : appendLengths v n s = raise .repeatOverrun s := if_pos h

theorem appendLengths_of_last {v : BitVec 4} {n : Nat} {s : State}
    (h : s.lens.length + n = s.nlen.toNat + s.ndist.toNat) :
    appendLengths v n s = finishHeader s { commit s with lens := s.lens ++ List.replicate n v } := by
  have hfit : ¬ s.nlen.toNat + s.ndist.toNat < s.nl + n := by rw [State.nl]; omega
  have hlast : (s.lens ++ List.replicate n v).length = s.nlen.toNat + s.ndist.toNat := by
    rw [List.length_append, List.length_replicate]; omega
  rw [appendLengths, if_neg hfit]
  exact if_pos hlast

/-- The rows of the code-length symbols append a run, a repeat one of the last length (R88, R246). -/
theorem exec_rep16_of_last {s : State} {v : BitVec 4} (hlast : s.lens.getLast? = some v) (x : BitVec 2) :
    exec (.rep16 x) s = .next (appendLengths v (3 + x.toNat) s) := by
  show execRep16 x s = _
  simp only [execRep16, hlast]
  rfl

theorem exec_rep16_of_nothing {s : State} (hnil : s.lens = []) (x : BitVec 2) :
    exec (.rep16 x) s = .next (raise .repeatNoPrev s) := by
  show execRep16 x s = _
  simp only [execRep16, hnil, List.getLast?_nil]

/-- Settles O33: every item but a repeat of nothing appends a run, which fits or overruns. -/
theorem codeLengthItems : Obligations.CodeLengthItems := by
  intro l x y z s
  refine ⟨fun e he => ?_, fun hnil => exec_rep16_of_nothing hnil x⟩
  have hrun : exec e.1 s = .next (appendLengths e.2.1 e.2.2 s) := by
    simp only [List.mem_append, List.mem_cons, List.not_mem_nil, or_false, List.mem_map, Option.mem_toList] at he
    rcases he with (rfl | rfl | rfl) | ⟨v, hv, rfl⟩
    · rfl
    · rfl
    · rfl
    · exact exec_rep16_of_last hv x
  refine ⟨fun hmore => ?_, fun hover => ?_⟩
  · rw [hrun, appendLengths_of_more hmore]
  · rw [hrun, appendLengths_of_overrun hover]
    rfl

/-! ## The end of the header -/

/-- The first of the lengths, filled up with zeros to the size of its alphabet (R250). -/
theorem rightpad_take_eq {n m : Nat} {l : List (BitVec 4)} (hm : n ≤ m) (hl : n ≤ l.length) :
    ((l.take n).map BitVec.toNat).rightpad m 0 =
      (List.range m).map fun k => if k < n then (l.getD k 0).toNat else 0 := by
  refine List.ext_getElem (by simp; omega) fun k hk hk' => ?_
  have hlen : ((l.take n).map BitVec.toNat).length = n := by simp; omega
  simp only [List.rightpad, List.getElem_append, hlen, List.getElem_map, List.getElem_range, List.getElem_replicate,
    List.getElem_take]
  split
  · next hlt => rw [List.getD_eq_getElem _ _ (hlt.trans_le hl)]
  · rfl

theorem headerLitLens_eq {nlen : Nat} {lens : List (BitVec 4)} (hn : nlen ≤ 286) (hl : nlen ≤ lens.length) :
    headerLitLens nlen lens = (List.range 286).map fun k => if k < nlen then (lens.getD k 0).toNat else 0 :=
  rightpad_take_eq hn hl

theorem headerDistLens_eq {nlen ndist : Nat} {lens : List (BitVec 4)} (hn : ndist ≤ 30)
    (hl : nlen + ndist ≤ lens.length) :
    headerDistLens nlen ndist lens =
      (List.range 30).map fun k => if k < ndist then (lens.getD (nlen + k) 0).toNat else 0 := by
  have hdrop : ndist ≤ (lens.drop nlen).length := by rw [List.length_drop]; omega
  rw [headerDistLens, nDist, rightpad_take_eq hn hdrop]
  refine List.map_congr_left fun k _ => ?_
  rw [List.getD_eq_getElem?_getD, List.getElem?_drop, List.getD_eq_getElem?_getD]

/-- The three outcomes of a complete header, in the order of the tests (R250, R252). -/
theorem finishHeader_cases {s t : State} {ll dl : List Nat} (hll : headerLitLens t.nlen.toNat t.lens = ll)
    (hdl : headerDistLens t.nlen.toNat t.ndist.toNat t.lens = dl) :
    (ll.getD 256 0 = 0 → finishHeader s t = raise .noEobCode s) ∧
      (ll.getD 256 0 ≠ 0 → buildDecodeTable ll = none ∨ buildDecodeTable dl = none →
        finishHeader s t = raise .oversubscribed s) ∧
      ∀ lt dt, ll.getD 256 0 ≠ 0 → buildDecodeTable ll = some lt → buildDecodeTable dl = some dt →
        finishHeader s t = { t with lt := lt, dt := dt, dstate := .sym } := by
  unfold finishHeader
  rw [hll, hdl]
  refine ⟨fun hnone => if_pos hnone, fun heob hover => (if_neg heob).trans ?_,
    fun lt dt heob hlt hdt => (if_neg heob).trans ?_⟩
  · rcases hover with hl | hd
    · rw [hl]
    · rw [hd]
      cases buildDecodeTable ll <;> rfl
  · rw [hlt, hdt]

/-- Settles O34: the last item appends its run, and the header of all the lengths passes or fails the three tests. -/
theorem lastCodeLengthFinishesHeader : Obligations.LastCodeLengthFinishesHeader := by
  intro l x y z s h257 h286 h30 e he hlast lens ll dl hlens hll hdl
  have hrun : exec e.1 s = .next (appendLengths e.2.1 e.2.2 s) := by
    simp only [List.mem_cons, List.not_mem_nil, or_false] at he
    rcases he with rfl | rfl | rfl | rfl
    · rfl
    · cases hprev : s.lens.getLast? with
      | none =>
        rw [List.getLast?_eq_none_iff.mp hprev] at hlast
        have := x.isLt
        simp only [List.length_nil] at hlast
        omega
      | some v => exact exec_rep16_of_last hprev x
    · rfl
    · rfl
  have hlength : lens.length = s.nlen.toNat + s.ndist.toNat := by
    rw [hlens, List.length_append, List.length_replicate, hlast]
  have hlitlen : headerLitLens s.nlen.toNat lens = ll := (headerLitLens_eq h286 (by omega)).trans hll.symm
  have hdistlen : headerDistLens s.nlen.toNat s.ndist.toNat lens = dl :=
    (headerDistLens_eq h30 hlength.ge).trans hdl.symm
  rw [hrun, appendLengths_of_last hlast, ← hlens]
  have hheader := finishHeader_cases (s := s) (t := { commit s with lens := lens }) hlitlen hdistlen
  obtain ⟨hnoEob, hover, hbuilt⟩ := hheader
  refine ⟨fun hzero => ?_, fun heob hnone => ?_, fun lt dt heob hlt hdt => ?_⟩
  · rw [hnoEob hzero]
    rfl
  · rw [hover heob hnone]
    rfl
  · rw [hbuilt lt dt heob hlt hdt]

end Sys2Proof.Machine

/-! PROOFS. The output cap (spec 10_state R34, 45_inflate R236): every transition of the decoder stays within it, and
no command produces output otherwise. -/

namespace Sys2Proof.Machine

/-! ## Transitions of the decoder -/

theorem windowAppend_of_decompress_totalOut (b : Byte) {s : State} (hm : s.mode = .decompress) :
    (windowAppend b s).totalOut = s.totalOut + 1 := by
  rw [windowAppend_totalOut, if_pos hm]

theorem windowCopy_totalOut (distance length : Nat) {s : State} (hm : s.mode = .decompress) :
    (windowCopy distance length s).totalOut = s.totalOut + length := by
  induction length generalizing s with
  | zero => rfl
  | succ n ih =>
    have hm' : (copyByte distance s).mode = .decompress := (windowAppend_mode _ s).trans hm
    rw [windowCopy, ih hm', copyByte, windowAppend_of_decompress_totalOut _ hm, Nat.add_assoc, Nat.add_comm 1]

/-- Below the cap, and not in a stored block: there the cap asks nothing of what is still to come (R236). -/
theorem capInv_of_le {s : State} (hd : s.dstate ≠ .storedCopy) (hle : s.totalOut ≤ s.outLimit.toNat) : s.CapInv :=
  fun _ => ⟨hle, fun h => absurd h hd⟩

/-- The end of a block is not inside a stored block. -/
theorem endOfBlock_capInv {s : State} (hle : s.totalOut ≤ s.outLimit.toNat) : (endOfBlock s).CapInv := by
  refine capInv_of_le ?_ hle
  rw [endOfBlock_dstate]
  split <;> exact fun h => nomatch h

theorem le_of_overLimit_eq_false {n : Nat} {s : State} (h : overLimit n s = false) :
    s.totalOut + n ≤ s.outLimit.toNat := Nat.le_of_not_lt (of_decide_eq_false h)

/-- Outside a stored block every move of the decoder keeps the cap: what it produces has passed the cap test. -/
theorem DecoderMove.capInv {s t : State} (hmove : DecoderMove s t) (hm : s.mode = .decompress)
    (hd : s.dstate ≠ .storedCopy) (h : s.CapInv) : t.CapInv := by
  obtain ⟨hle, -⟩ := h hm
  cases hmove with
  | fault c => exact h
  | header final next hnext =>
    refine capInv_of_le ?_ hle
    rw [enterBlock_dstate]
    rcases hnext with rfl | rfl <;> exact fun h => nomatch h
  | fixedHeader | counts | codeLengthTable | headerDone => exact capInv_of_le (fun h => nomatch h) hle
  | codeLength | lengths | matchLength => exact capInv_of_le hd hle
  | storedEmpty | endBlock => exact endOfBlock_capInv hle
  | storedLength len hpos hlt hcap =>
    have hrem : (BitVec.ofNat 16 len).toNat = len := Nat.mod_eq_of_lt hlt
    refine fun _ => ⟨hle, fun _ => ?_⟩
    rw [hrem]
    exact ⟨hpos, le_of_overLimit_eq_false hcap⟩
  | storedByte b hcopy | storedLast b hcopy => exact absurd hcopy hd
  | literal b hcap =>
    refine capInv_of_le ?_ ?_
    · rwa [windowAppend_dstate]
    · rw [windowAppend_of_decompress_totalOut b (s := commit s) hm, windowAppend_outLimit]
      exact le_of_overLimit_eq_false hcap
  | matchCopy length distance hlen hhave hcap =>
    have hframe := windowCopy_frame distance length (commit s)
    refine capInv_of_le ?_ ?_
    · rw [hframe]
      exact hd
    · rw [windowCopy_totalOut distance length (s := commit s) hm, hframe]
      exact le_of_overLimit_eq_false hcap

/-- A byte of a stored block produces one of the bytes that the cap was tested for (R234, R236). -/
theorem storedCopyStep_capInv {s t : State} (hm : s.mode = .decompress) (hd : s.dstate = .storedCopy) (h : s.CapInv)
    (hs : storedCopyStep s = some t) : t.CapInv := by
  obtain ⟨-, hstored⟩ := h hm
  obtain ⟨hpos, hcap⟩ := hstored hd
  have htotal (b : Byte) : (storedByteTaken b (advance 8 s)).totalOut = s.totalOut + 1 :=
    windowAppend_of_decompress_totalOut b (s := commit (advance 8 s)) hm
  have hlimit (b : Byte) : (storedByteTaken b (advance 8 s)).outLimit = s.outLimit :=
    windowAppend_outLimit b (commit (advance 8 s))
  have hrem (b : Byte) : (storedByteTaken b (advance 8 s)).rem.toNat = s.rem.toNat - 1 := by
    show (s.rem - 1).toNat = s.rem.toNat - 1
    bv_omega
  obtain ⟨b, hmore | hlast⟩ : ∃ b, t = storedByteTaken b (advance 8 s) ∧ s.rem - 1 ≠ 0 ∨
      t = endOfBlock (storedByteTaken b (advance 8 s)) := by
    unfold storedCopyStep at hs
    split at hs
    · cases hs
    · next v _ =>
      dsimp only at hs
      rw [windowAppend_rem] at hs
      cases hs
      refine ⟨.ofNat 8 v, ?_⟩
      split
      · exact .inr rfl
      · next hne => exact .inl ⟨rfl, hne⟩
  · obtain ⟨rfl, hne⟩ := hmore
    have hne' : s.rem.toNat ≠ 1 := fun h1 => hne (by bv_omega)
    refine fun _ => ⟨?_, fun _ => ?_⟩
    · rw [htotal, hlimit]
      omega
    · rw [htotal, hlimit, hrem]
      omega
  · rw [hlast]
    refine endOfBlock_capInv ?_
    rw [htotal, hlimit]
    omega

/-- No element of the opcode table is next inside a stored block (R98, R234). -/
theorem decoderStep_capInv {s t : State} (hm : s.mode = .decompress) (h : s.CapInv)
    (hs : decoderStep exec s = some (.next t)) : t.CapInv := by
  by_cases hd : s.dstate = .storedCopy
  · rw [decoderStep_of_plain (fetchElement_storedCopy hd), plainStep_storedCopy hd] at hs
    obtain ⟨u, hu, heq⟩ := Option.map_eq_some_iff.mp hs
    cases heq
    exact storedCopyStep_capInv hm hd h hu
  · obtain ⟨n, hmove⟩ := decoderStep_move hs
    exact hmove.capInv (s := advance n s) hm hd h

/-! ## Commands -/

/-- The cap is kept, whatever the mode. -/
theorem capInv_of_mode {s : State} (hm : s.mode ≠ .decompress) : s.CapInv := fun h => absurd h hm

theorem decodeStream_capInv {s : State} (hm : s.mode = .decompress) (h : s.CapInv) :
    NextHas State.CapInv (decodeStream s) :=
  decodeLoop_induction (P := fun s => s.CapInv ∧ s.mode = .decompress) (Q := NextHas State.CapInv)
    (fun _ hs => nextHas_next hs.1) (fun _ hs => hs)
    (fun s o hs _ ho => by
      have hnext : ∀ t, o = .next t → t.CapInv ∧ t.mode = .decompress := by
        rintro t rfl
        obtain ⟨n, hmove⟩ := decoderStep_move ho
        exact ⟨decoderStep_capInv hs.2 hs.1 ho, hmove.mode.trans hs.2⟩
      exact ⟨fun t ht => (hnext t ht).1, hnext⟩) _ ⟨h, hm⟩

theorem settleDecode_capInv {s : State} (h : s.CapInv) : (settleDecode s).CapInv := by
  unfold settleDecode
  split <;> exact h

theorem execFeed_capInv (chunk : List Byte) {s : State} (h : s.CapInv) : NextHas State.CapInv (execFeed chunk s) := by
  unfold execFeed
  split
  · exact nextHas_next h
  · split
    · exact nextHas_next h
    · next hm =>
      have hmode : (feedCompress chunk s).mode = .compress := (tokenise_mode false _).trans hm
      exact nextHas_next (capInv_of_mode (s := endCommand (feedCompress chunk s)) (by simp [hmode]))
    · next hm =>
      unfold feedDecompress
      split
      · next t ht =>
        have hcap : t.CapInv := decodeStream_capInv (s := acceptInput chunk s) hm h t ht
        exact nextHas_next (s := endCommand (settleDecode t)) (settleDecode_capInv hcap)
      all_goals exact fun _ ht => nomatch ht
  · exact nextHas_next h
  · exact nextHas_next h
  · exact nextHas_next h

/-- A command of an open compress stream leaves its mode, which the cap does not concern (R34). -/
theorem execFlush_capInv {s : State} (h : s.CapInv) : NextHas State.CapInv (execFlush s) := by
  unfold execFlush
  split
  · exact nextHas_next h
  · split
    · exact nextHas_next h
    · next hm =>
      have hmode : (flushCompress s).mode = .compress := by rw [flushCompress_datapathFrame hm]; exact hm
      exact nextHas_next (capInv_of_mode (s := endCommand (flushCompress s)) (by simp [hmode]))
    · exact nextHas_next h
  · exact nextHas_next h
  · exact nextHas_next h
  · exact nextHas_next h

theorem execFinish_capInv {s : State} (h : s.CapInv) : NextHas State.CapInv (execFinish s) := by
  unfold execFinish
  split
  · exact nextHas_next h
  · split
    · exact nextHas_next h
    · next hm =>
      have hmode : (finishCompress s).mode = .compress := by
        rw [finishCompress, alignedFinal_datapathFrame hm]
        exact hm
      exact nextHas_next (capInv_of_mode (s := endCommand (finishCompress s)) (by simp [hmode]))
    · exact nextHas_next h
  · refine nextHas_next (s := endCommand (finishDone s)) ?_
    show (finishDone s).CapInv
    unfold finishDone
    split <;> exact h
  · exact nextHas_next h
  · exact nextHas_next h

/-- An open stream has produced nothing. -/
theorem openStream_capInv (m : Mode) (s : State) : (openStream m s).CapInv :=
  capInv_of_le (fun h => nomatch h) (Nat.zero_le _)

theorem execCinit_capInv (s : State) : NextHas State.CapInv (execCinit s) := by
  refine nextHas_next (s := endCommand _) (capInv_of_mode ?_)
  rw [endCommand_mode]
  split <;> exact fun h => nomatch h

theorem reservedCommand_capInv {s : State} (h : s.CapInv) : (reservedCommand s).CapInv := by
  unfold reservedCommand
  split <;> exact h

theorem exec_command_capInv {i : Instr} (hcmd : (encode i).format = .cmd) {s : State} (h : s.CapInv) :
    NextHas State.CapInv (exec i s) := by
  cases i with
  | reset => exact nextHas_next (capInv_of_mode fun h => nomatch h)
  | cinit => exact execCinit_capInv s
  | dinit => exact nextHas_next (openStream_capInv .decompress s)
  | feed chunk => exact execFeed_capInv chunk h
  | flush => exact execFlush_capInv h
  | finish => exact execFinish_capInv h
  | cmdReserved00 | cmdReserved07 | cmdReserved080F _ | cmdReserved101F _ | cmdReserved203F _
  | cmdReserved407F _ | cmdReserved80FF _ => exact nextHas_next (reservedCommand_capInv h)
  | _ => exact nomatch hcmd

/-! ## Steps -/

/-- Of the accesses that are no command, only a write of `OUT_LIMIT` reaches what the cap speaks of (R30, R68). -/
theorem accessEffect_capInv {a : HostAccess} (hlimit : ∀ v chunk, a ≠ .write 3 v chunk) {s t : State} (h : s.CapInv)
    (ha : accessEffect a s = .done t) : t.CapInv := by
  cases a with
  | write reg v chunk =>
    by_cases h0 : reg = 0
    · obtain ⟨i, hi⟩ := decodeCmd_ok (Nat.mod_lt v.toNat (by decide : 0 < 2 ^ 8)) chunk
      rw [h0, accessEffect_write_cmd (i := i) hi] at ha
      cases ha
    · have h3 : reg ≠ 3 := fun h => hlimit v chunk (by rw [h])
      rw [accessEffect_write h0, writeReg_eq, if_neg h3] at ha
      cases ha
      exact h
  | read reg => cases ha; exact h
  | take =>
    cases ha
    unfold takeByte
    split <;> exact h
  | hardReset => cases ha; exact capInv_of_mode fun h => nomatch h

/-- Settles O55: outside a stored block what a transition produces has passed the cap test; inside one, the bytes left
are bytes that the test has counted. -/
theorem stepKeepsOutputCap : Obligations.StepKeepsOutputCap := by
  intro s t h hlimit hs
  cases hq : s.hostq with
  | cons a rest =>
    have hrest : { s with hostq := rest }.CapInv := h
    rcases accessEffect_cases a { s with hostq := rest } with ⟨i, hi, hcmd⟩ | ⟨u, hu, -⟩ | hr
    · rw [step_of_command hq hi] at hs
      exact exec_command_capInv hcmd hrest t hs
    · rw [step_of_done hq hu] at hs
      cases hs
      exact accessEffect_capInv (fun v chunk ha => hlimit v chunk rest (by rw [hq, ha])) hrest hu
    · rw [step_of_done hq hr] at hs
      cases hs
      exact capInv_of_mode fun h => nomatch h
  | nil =>
    cases hdec : decoding s with
    | false =>
      rw [step_of_not_decoding hq hdec] at hs
      cases hs
      exact h
    | true =>
      rw [step_decoding hq hdec] at hs
      cases ho : decoderStep exec s with
      | none => rw [ho] at hs; cases hs; exact h
      | some o =>
        rw [ho] at hs
        exact decoderStep_capInv (decoding_iff.mp hdec).1 h (ho.trans (congrArg some hs))

end Sys2Proof.Machine

/-! PROOFS. Runs of the decoder (spec 45_inflate R230): the loop of `Decode()` as a relation, the bits a transition
reads, and the independence of how the input is cut (R128, R330). -/

namespace Sys2Proof.Machine

/-! ## Runs of the decoder -/

/-- `Decode()` leads from the first state to the second (R230): the decoder makes transitions until no stream is being
decoded or the next step holds. -/
inductive RunsTo : State → State → Prop where
  | stop {s : State} (hdec : decoding s = false) : RunsTo s s
  | hold {s : State} (hdec : decoding s = true) (hold : decoderStep exec s = none) : RunsTo s (rollback s)
  | step {s t u : State} (hdec : decoding s = true) (hs : decoderStep exec s = some (.next t)) (hrun : RunsTo t u) :
      RunsTo s u

/-- Every run from the second state is the rest of a run from the first. -/
def LeadsTo (s t : State) : Prop := ∀ u, RunsTo t u → RunsTo s u

theorem LeadsTo.refl (s : State) : LeadsTo s s := fun _ hrun => hrun

theorem LeadsTo.trans {s t u : State} (h : LeadsTo s t) (k : LeadsTo t u) : LeadsTo s u := fun _ hrun => h _ (k _ hrun)

theorem LeadsTo.of_step {s t : State} (hdec : decoding s = true) (hs : decoderStep exec s = some (.next t)) :
    LeadsTo s t := fun _ hrun => .step hdec hs hrun

/-! ## What an execution leaves of the input -/

/-- The execution of an element ends at a step boundary, or it is the length half of a match (R230, R258). -/
theorem exec_element_ends {i : Instr} {s t : State} (h : (encode i).format ≠ .cmd) (he : exec i s = .next t) :
    t.AtBoundary ∨ ((encode i).format = .litlenSym ∧ ∃ k x, t = matchLengthHalf k x s) := by
  have happended (b : Byte) : (literal b s).AtBoundary := by
    unfold literal
    split
    · exact raise_atBoundary _ _
    · exact ⟨by simp, by simp⟩
  have hcopied (length distance : Nat) : (copyMatch length distance s).AtBoundary := by
    unfold copyMatch
    split
    · exact raise_atBoundary _ _
    · split
      · exact raise_atBoundary _ _
      · rw [windowCopy_frame]
        exact commit_atBoundary s
  have hdistance {j : Nat} {x : BitVec 13} (he : matchDistanceHalf j x s = .next t) : t.AtBoundary := by
    unfold matchDistanceHalf at he
    split at he
    · cases he
    · cases he; exact hcopied _ _
  have hlengths (v : BitVec 4) (n : Nat) : (appendLengths v n s).AtBoundary := by
    unfold appendLengths finishHeader
    split_ifs
    · exact raise_atBoundary _ _
    · dsimp only
      split_ifs
      · exact raise_atBoundary _ _
      · split
        · exact commit_atBoundary s
        · exact raise_atBoundary _ _
      · exact commit_atBoundary s
  cases i with
  | reset | cinit | dinit | feed _ | flush | finish | cmdReserved00 | cmdReserved07 | cmdReserved080F _
  | cmdReserved101F _ | cmdReserved203F _ | cmdReserved407F _ | cmdReserved80FF _ => exact absurd rfl h
  | blockStored _ | blockFixed _ | blockDynamic _ | eob => cases he; exact .inl (commit_atBoundary s)
  | blockReserved _ | litlenInvalid286_287 _ | distInvalid30_31 _ => cases he; exact .inl (raise_atBoundary _ s)
  | lit000_127 b | lit128_143 b | lit144_159 b | lit160_191 b | lit192_255 b => cases he; exact .inl (happended b)
  | len257 x | len258 x | len259 x | len260 x | len261 x | len262 x | len263 x | len264 x | len265 x | len266 x
  | len267 x | len268 x | len269 x | len270 x | len271 x | len272 x | len273 x | len274 x | len275 x | len276 x
  | len277 x | len278 x | len279 x | len280 x | len281 x | len282 x | len283 x | len284 x | len285 x =>
    cases he; exact .inr ⟨rfl, _, x, rfl⟩
  | dist0 x | dist1 x | dist2 x | dist3 x | dist4 x | dist5 x | dist6 x | dist7 x | dist8 x | dist9 x | dist10 x
  | dist11 x | dist12 x | dist13 x | dist14 x | dist15 x | dist16 x | dist17 x | dist18 x | dist19 x | dist20 x
  | dist21 x | dist22 x | dist23 x | dist24 x | dist25 x | dist26 x | dist27 x | dist28 x | dist29 x =>
    exact .inl (hdistance (x := x) he)
  | cl v => cases he; exact .inl (hlengths v 1)
  | rep16 x =>
    cases hv : s.lens.getLast? with
    | none =>
      rw [exec_rep16_of_nothing (List.getLast?_eq_none_iff.mp hv)] at he
      cases he; exact .inl (raise_atBoundary _ s)
    | some v => rw [exec_rep16_of_last hv] at he; cases he; exact .inl (hlengths v _)
  | repz17 x | repz18 x => cases he; exact .inl (hlengths 0 _)

/-- The bits a move leaves unread are those behind the cursor, unless it faults (R230, R325). -/
theorem DecoderMove.unread {s t : State} (hmove : DecoderMove s t) :
    t.phase = .fault ∨ Machine.unread t = Machine.unread s := by
  have htaken (b : Byte) : Machine.unread (storedByteTaken b s) = Machine.unread s := by
    simp [Machine.unread, storedByteTaken]
  cases hmove with
  | fault => exact .inl rfl
  | header | fixedHeader | storedEmpty | storedLength | counts | codeLength | codeLengthTable | lengths
  | headerDone | endBlock | matchLength => exact .inr rfl
  | storedByte b | storedLast b => exact .inr (htaken b)
  | literal b => exact .inr (by simp [Machine.unread])
  | matchCopy length distance =>
    refine .inr ?_
    rw [windowCopy_frame distance length (commit s)]
    rfl

theorem DecoderMove.phase {s t : State} (hmove : DecoderMove s t) : t.phase = s.phase ∨ t.phase = .fault := by
  cases hmove with
  | fault => exact .inr rfl
  | header | fixedHeader | storedEmpty | storedLength | counts | codeLength | codeLengthTable | lengths
  | headerDone | endBlock | matchLength => exact .inl rfl
  | storedByte b | storedLast b | literal b => exact .inl (windowAppend_phase b (commit s))
  | matchCopy length distance =>
    refine .inl ?_
    rw [windowCopy_frame distance length (commit s)]
    rfl

theorem DecoderMove.totalIn {s t : State} (hmove : DecoderMove s t) : t.totalIn = s.totalIn := by
  cases hmove with
  | fault | header | fixedHeader | storedEmpty | storedLength | counts | codeLength | codeLengthTable | lengths
  | headerDone | endBlock | matchLength => rfl
  | storedByte b | storedLast b | literal b => exact windowAppend_totalIn b (commit s)
  | matchCopy length distance =>
    rw [windowCopy_frame distance length (commit s)]
    rfl

/-! ## The bits a transition reads -/

theorem length_unread (s : State) : (unread s).length = s.inq.length - s.cursor := List.length_drop

/-- A fetched symbol has read one bit at least, and only bits that are there (R124, R126). -/
theorem fetchSymbol_reads {f : Format} {T : DecodeTable} {s t : State} {i : Instr}
    (h : fetchSymbol f T s = .element i t) : ∃ n, t = advance n s ∧ 0 < n ∧ n ≤ (unread s).length := by
  obtain ⟨y, n, x, hy, hx, -, rfl⟩ := fetchSymbol_element h
  obtain ⟨-, hpos, -⟩ := decodeSym_sym hy
  have hextra := peekBits_length hx
  have hcode := (decodeSym_sym hy).2.2
  rw [List.length_drop] at hextra
  exact ⟨_, rfl, by omega, by omega⟩

/-- A fetched element has read one bit at least, and only bits that are there (R124). -/
theorem fetchElement_reads {s t : State} {i : Instr} (h : fetchElement s = some (.element i t)) :
    ∃ n, t = advance n s ∧ 0 < n ∧ n ≤ (unread s).length := by
  unfold fetchElement at h
  split at h
  · obtain ⟨v, hv, -, rfl⟩ := fetchHeader_element (Option.some.inj h)
    exact ⟨3, rfl, by decide, peekBits_length hv⟩
  · exact fetchSymbol_reads (Option.some.inj h)
  · split at h
    · exact fetchSymbol_reads (Option.some.inj h)
    · exact fetchSymbol_reads (Option.some.inj h)
  all_goals cases h

/-- A plain step that completes has read one bit at least, and only bits that are there. -/
theorem plainStep_reads {s t : State} (h : plainStep s = some t) :
    t.phase = .fault ∨ ∃ n, 0 < n ∧ n ≤ (unread s).length ∧ unread t = (unread s).drop n := by
  have hbehind (n : Nat) : s.inq.drop (s.cursor + n) = (unread s).drop n := by rw [unread, List.drop_drop]
  unfold plainStep at h
  split at h
  · unfold storedLenStep at h
    split at h
    · next hsecond =>
      have hlen := peekBits_length hsecond
      rw [List.length_drop] at hlen
      dsimp only at h
      split_ifs at h
      · cases h; exact .inl rfl
      · cases h; exact .inl rfl
      · cases h; exact .inr ⟨alignInPad s + 32, by omega, by omega, hbehind _⟩
      · cases h; exact .inr ⟨alignInPad s + 32, by omega, by omega, hbehind _⟩
    · cases h
  · unfold storedCopyStep at h
    split at h
    · cases h
    · next v hv =>
      cases h
      refine .inr ⟨8, by decide, peekBits_length hv, ?_⟩
      split <;> simp [unread, List.drop_drop]
  · unfold dynHdrStep at h
    split at h
    · cases h
    · next v hv =>
      dsimp only at h
      split_ifs at h
      · cases h; exact .inl rfl
      · cases h; exact .inr ⟨14, by decide, peekBits_length hv, hbehind _⟩
  · unfold dynClStep at h
    split at h
    · cases h
    · next v hv =>
      dsimp only at h
      split_ifs at h
      · split at h
        · cases h; exact .inl rfl
        · cases h; exact .inr ⟨3, by decide, peekBits_length hv, hbehind _⟩
      · cases h; exact .inr ⟨3, by decide, peekBits_length hv, hbehind _⟩
  all_goals cases h

/-- How many passes the loop of `Decode()` needs at most (R230, log 18). -/
def passes (s : State) : Nat := if decoding s then (unread s).length + 1 else 0

theorem decoding_of_fault {s : State} (h : s.phase = .fault) : decoding s = false := by
  simp [decoding, h]

/-- Every transition but the last reads at least one more bit, so one pass fewer is left (log 18). -/
theorem passes_lt {s t : State} (hdec : decoding s = true) (hs : decoderStep exec s = some (.next t)) :
    passes t < passes s := by
  have hsome : passes s = (unread s).length + 1 := if_pos hdec
  have hfault {u : State} (hu : u.phase = .fault) : passes u = 0 := if_neg (by simp [decoding_of_fault hu])
  have hle (u : State) : passes u ≤ (unread u).length + 1 := by unfold passes; split <;> omega
  rcases decoderStep_cases hs with ⟨i, u, hf, he, -⟩ | ⟨-, rfl⟩ | ⟨-, hp⟩
  · obtain ⟨n, rfl, hpos, hn⟩ := fetchElement_reads hf
    rcases (exec_element_next (fetchElement_format hf).1 he).unread with hphase | hunread
    · rw [hfault hphase]
      omega
    · have hlen := hle t
      rw [hunread, length_unread] at hlen
      rw [length_unread] at hn hsome
      simp only [advance_inq, advance_cursor] at hlen
      omega
  · rw [hfault (raise_phase _ _)]
    omega
  · rcases plainStep_reads hp with hphase | ⟨n, hpos, hn, hunread⟩
    · rw [hfault hphase]
      omega
    · have hlen := hle t
      rw [hunread, List.length_drop] at hlen
      omega

/-- The loop of `Decode()` makes the run, if it has the passes for it (R230, log 18). -/
theorem decodeLoop_of_runsTo {s t : State} (h : RunsTo s t) {fuel : Nat} (hfuel : passes s ≤ fuel) :
    decodeLoop fuel s = .next t := by
  have hpos {u : State} (hdec : decoding u = true) : 0 < passes u := by rw [passes, if_pos hdec]; omega
  induction h generalizing fuel with
  | stop hdec =>
    cases fuel with
    | zero => rfl
    | succ n => exact if_neg (by simp [hdec])
  | @hold s hdec hs =>
    obtain ⟨n, rfl⟩ : ∃ n, fuel = n + 1 := ⟨fuel - 1, by have := hpos hdec; omega⟩
    rw [decodeLoop, if_pos hdec, decoderStep_execElement, hs]
  | @step s t u hdec hs hrun ih =>
    have hlt := passes_lt hdec hs
    obtain ⟨n, rfl⟩ : ∃ n, fuel = n + 1 := ⟨fuel - 1, by omega⟩
    rw [decodeLoop, if_pos hdec, decoderStep_execElement, hs]
    exact ih (by omega)

theorem decodeStream_of_runsTo {s t : State} (h : RunsTo s t) : decodeStream s = .next t := by
  refine decodeLoop_of_runsTo h ?_
  unfold passes
  have hlen := length_unread s
  split <;> omega

/-! ## Runs complete -/

/-- The tables hold symbols of their alphabets, and the counts of a header will not lead beyond them (R100, R240). -/
def State.TablesFit (s : State) : Prop := s.TablesInv ∧ s.nlen.toNat ≤ nLitLen ∧ s.ndist.toNat ≤ nDist

theorem DecoderMove.tablesFit {s t : State} (hmove : DecoderMove s t) (h : s.TablesFit) : t.TablesFit := by
  have ⟨⟨hclt, hlt, hdt⟩, hn, hd⟩ := h
  have h286 : nLitLen = 286 := rfl
  have h30 : nDist = 30 := rfl
  cases hmove with
  | fault | header | storedEmpty | storedLength | codeLength | lengths | endBlock | matchLength => exact h
  | fixedHeader => exact ⟨⟨hclt, fixedTables_lt⟩, hn, hd⟩
  | storedByte b | storedLast b | literal b =>
    simpa [State.TablesFit, State.TablesInv, storedByteTaken] using h
  | counts nlen ndist ncode hl' hd' hc =>
    refine ⟨⟨hclt, hlt, hdt⟩, ?_, ?_⟩
    · exact (toNat_ofNat_of_fits (n := 9) (x := nlen) (by omega) le_rfl).trans_le hl'.2
    · exact (toNat_ofNat_of_fits (n := 6) (x := ndist) (by omega) le_rfl).trans_le hd'.2
  | codeLengthTable cll T _ hT =>
    have hlen : (cll.toList.map BitVec.toNat).length = nCl := by simp [nCl]
    exact ⟨⟨fun y hy => hlen ▸ buildDecodeTable_sorted_lt hT hy, hlt, hdt⟩, hn, hd⟩
  | headerDone lens lt dt hltT hdtT =>
    refine ⟨⟨hclt, fun y hy => ?_, fun y hy => ?_⟩, hn, hd⟩
    · have := buildDecodeTable_sorted_lt hltT hy
      have := headerLitLens_length_le lens hn
      omega
    · have := buildDecodeTable_sorted_lt hdtT hy
      have := headerDistLens_length_le s.nlen.toNat lens hd
      omega
  | matchCopy length distance =>
    rw [windowCopy_frame distance length (commit s)]
    exact h

theorem decoderStep_tablesFit {s t : State} (h : s.TablesFit) (hs : decoderStep exec s = some (.next t)) :
    t.TablesFit := by
  obtain ⟨n, hmove⟩ := decoderStep_move hs
  exact hmove.tablesFit (s := advance n s) h

/-- With tables of their alphabets every state has its run (R100, log 18). -/
theorem exists_runsTo {s : State} (h : s.TablesFit) : ∃ t, RunsTo s t := by
  induction hn : passes s using Nat.strong_induction_on generalizing s with
  | _ n ih =>
    cases hdec : decoding s with
    | false => exact ⟨s, .stop hdec⟩
    | true =>
      cases ho : decoderStep exec s with
      | none => exact ⟨_, .hold hdec ho⟩
      | some o =>
        obtain ⟨t, rfl⟩ := decoderStep_completes h.1 ho
        obtain ⟨u, hrun⟩ := ih _ (hn ▸ passes_lt hdec ho) (decoderStep_tablesFit h ho) rfl
        exact ⟨u, .step hdec ho hrun⟩

end Sys2Proof.Machine

/-! PROOFS. Independence of chunking in decompress mode (spec 40_bitio R128, 45_inflate R230, R299, 60_exceptions
R330): a transition that completes does not look at the bits behind those it reads. -/

namespace Sys2Proof.Machine

/-! ## Bits that arrive behind the input -/

/-- The state with more bits behind the input, and with other values in the two registers that FEED accounts the input
with and that the decoder does not read. -/
def withBits (later : List Bool) (count : Nat) (waiting : Bool) (s : State) : State :=
  { s with inq := s.inq ++ later, totalIn := count, pending := waiting }

/-- The next state, changed by `f`. -/
def mapNext (f : State → State) : Host.Outcome State Fault Refusal → Host.Outcome State Fault Refusal
  | .next s => .next (f s)
  | .fault r => .fault r
  | .refused r => .refused r

/-- What a fetch finds, its state changed by `f`. -/
def mapFetch (f : State → State) : Fetch → Fetch
  | .element i s => .element i (f s)
  | .hold => .hold
  | .unassigned => .unassigned
  | .noSuchSymbol y => .noSuchSymbol y

section
variable (later : List Bool) (count : Nat) (waiting : Bool)

theorem unread_withBits {s : State} (h : s.cursor ≤ s.inq.length) :
    unread (withBits later count waiting s) = unread s ++ later := List.drop_append_of_le_length h

theorem commit_withBits {s : State} (h : s.cursor ≤ s.inq.length) :
    commit (withBits later count waiting s) = withBits later count waiting (commit s) := by
  have hdrop : (s.inq ++ later).drop s.cursor = s.inq.drop s.cursor ++ later := List.drop_append_of_le_length h
  show { withBits later count waiting s with
    inq := (s.inq ++ later).drop s.cursor, bitposIn := s.bitposIn + s.cursor, cursor := 0, pendLen := none } = _
  rw [hdrop]
  rfl

theorem windowAppend_withBits (b : Byte) (s : State) :
    windowAppend b (withBits later count waiting s) = withBits later count waiting (windowAppend b s) := by
  by_cases hm : s.mode = .decompress <;> simp [windowAppend, windowEmit, adlerUpdate, withBits, hm]

theorem windowCopy_withBits (distance length : Nat) (s : State) :
    windowCopy distance length (withBits later count waiting s) =
      withBits later count waiting (windowCopy distance length s) := by
  induction length generalizing s with
  | zero => rfl
  | succ n ih =>
    have hbyte : copyByte distance (withBits later count waiting s) =
        withBits later count waiting (copyByte distance s) := windowAppend_withBits later count waiting _ s
    rw [windowCopy, windowCopy, hbyte, ih]

/-! ## Reads that are complete -/

theorem peekBits_append {n v : Nat} {bits : List Bool} (h : peekBits n bits = some v) :
    peekBits n (bits ++ later) = some v := by
  have hlen := peekBits_length h
  have hshort : ¬ bits.length < n := by omega
  have hlong : ¬ (bits ++ later).length < n := by rw [List.length_append]; omega
  rw [peekBits, if_neg hshort] at h
  rw [peekBits, if_neg hlong, List.take_append_of_le_length hlen, h]

theorem decodeSymLoop_append {sorted counts : List Nat} {code first index n : Nat} {bits : List Bool}
    (h : decodeSymLoop sorted counts code first index n bits ≠ .hold) :
    decodeSymLoop sorted counts code first index n (bits ++ later) =
      decodeSymLoop sorted counts code first index n bits := by
  induction counts generalizing code first index n bits with
  | nil => cases bits <;> cases later <;> rfl
  | cons c cs ih =>
    cases bits with
    | nil => exact absurd rfl h
    | cons b bs =>
      rw [decodeSymLoop] at h
      rw [List.cons_append, decodeSymLoop, decodeSymLoop]
      split
      · rfl
      · next hlong => exact ih (by rwa [if_neg hlong] at h)

/-- A symbol that is there, or bits that form none, do not depend on what follows (R126). -/
theorem decodeSym_append {T : DecodeTable} {bits : List Bool} (h : decodeSym T bits ≠ .hold) :
    decodeSym T (bits ++ later) = decodeSym T bits := decodeSymLoop_append later h

theorem fetchSymbol_withBits {f : Format} {T : DecodeTable} {s : State} (hc : s.cursor ≤ s.inq.length)
    (h : fetchSymbol f T s ≠ .hold) :
    fetchSymbol f T (withBits later count waiting s) = mapFetch (withBits later count waiting) (fetchSymbol f T s) := by
  have hunread := unread_withBits later count waiting hc
  unfold fetchSymbol at h ⊢
  rw [hunread]
  cases hy : decodeSym T (unread s) with
  | hold => simp only [hy] at h; exact absurd rfl h
  | unassigned => rw [decodeSym_append later (by rw [hy]; exact fun h => nomatch h), hy]; rfl
  | sym y n =>
    obtain ⟨-, -, hn⟩ := decodeSym_sym hy
    rw [decodeSym_append later (by rw [hy]; exact fun h => nomatch h), hy]
    dsimp only
    simp only [hy] at h
    rw [List.drop_append_of_le_length hn]
    cases hx : peekBits (extraAsked f y s) ((unread s).drop n) with
    | none => simp only [hx] at h; exact absurd rfl h
    | some x =>
      have hx' : peekBits (extraAsked f y (withBits later count waiting s)) ((unread s).drop n ++ later) = some x :=
        peekBits_append later hx
      rw [hx']
      dsimp only
      cases decode ⟨f, y, x, []⟩ <;> rfl

theorem fetchHeader_withBits {s : State} (hc : s.cursor ≤ s.inq.length) (h : fetchHeader s ≠ .hold) :
    fetchHeader (withBits later count waiting s) = mapFetch (withBits later count waiting) (fetchHeader s) := by
  have hunread := unread_withBits later count waiting hc
  unfold fetchHeader at h ⊢
  rw [hunread]
  cases hv : peekBits 3 (unread s) with
  | none => simp only [hv] at h; exact absurd rfl h
  | some v =>
    rw [peekBits_append later hv]
    dsimp only
    cases decode ⟨.blockHdr, v, 0, []⟩ <;> rfl

/-- A fetch that does not hold finds the same with more bits behind (R98, R128). -/
theorem fetchElement_withBits {s : State} {f : Fetch} (hc : s.cursor ≤ s.inq.length) (hf : fetchElement s = some f)
    (hhold : f ≠ .hold) :
    fetchElement (withBits later count waiting s) = some (mapFetch (withBits later count waiting) f) := by
  have hd : (withBits later count waiting s).dstate = s.dstate := rfl
  have hp : (withBits later count waiting s).pendLen = s.pendLen := rfl
  unfold fetchElement at hf ⊢
  rw [hd, hp]
  cases hds : s.dstate <;> simp only [hds] at hf ⊢
  case hdr =>
    cases hf
    rw [fetchHeader_withBits later count waiting hc hhold]
  case dynLens =>
    cases hf
    exact congrArg some (fetchSymbol_withBits later count waiting hc hhold)
  case sym =>
    cases hpl : s.pendLen <;> simp only [hpl] at hf ⊢
    all_goals
      cases hf
      exact congrArg some (fetchSymbol_withBits later count waiting hc hhold)
  all_goals cases hf

theorem fetchElement_withBits_none {s : State} (hf : fetchElement s = none) :
    fetchElement (withBits later count waiting s) = none := by
  have hd : (withBits later count waiting s).dstate = s.dstate := rfl
  have hp : (withBits later count waiting s).pendLen = s.pendLen := rfl
  unfold fetchElement at hf ⊢
  rw [hd, hp]
  cases hds : s.dstate <;> simp only [hds] at hf ⊢
  case sym => cases hpl : s.pendLen <;> simp only [hpl] at hf <;> cases hf
  all_goals cases hf

/-! ## Executions -/

theorem literal_withBits (b : Byte) {s : State} (hc : s.cursor ≤ s.inq.length) :
    literal b (withBits later count waiting s) = withBits later count waiting (literal b s) := by
  unfold literal
  rw [commit_withBits later count waiting hc, windowAppend_withBits, apply_ite (withBits later count waiting)]
  rfl

theorem copyMatch_withBits (length distance : Nat) {s : State} (hc : s.cursor ≤ s.inq.length) :
    copyMatch length distance (withBits later count waiting s) =
      withBits later count waiting (copyMatch length distance s) := by
  unfold copyMatch
  rw [commit_withBits later count waiting hc, windowCopy_withBits, apply_ite (withBits later count waiting),
    apply_ite (withBits later count waiting)]
  rfl

theorem matchDistanceHalf_withBits (j : Nat) (x : BitVec 13) {s : State} (hc : s.cursor ≤ s.inq.length) :
    matchDistanceHalf j x (withBits later count waiting s) =
      mapNext (withBits later count waiting) (matchDistanceHalf j x s) := by
  have hp : (withBits later count waiting s).pendLen = s.pendLen := rfl
  unfold matchDistanceHalf
  rw [hp]
  cases s.pendLen with
  | none => rfl
  | some length => exact congrArg Host.Outcome.next (copyMatch_withBits later count waiting _ _ hc)

theorem finishHeader_withBits (s t : State) :
    finishHeader (withBits later count waiting s) (withBits later count waiting t) =
      withBits later count waiting (finishHeader s t) := by
  have hlens : (withBits later count waiting t).lens = t.lens := rfl
  have hnlen : (withBits later count waiting t).nlen = t.nlen := rfl
  have hndist : (withBits later count waiting t).ndist = t.ndist := rfl
  unfold finishHeader
  rw [hlens, hnlen, hndist]
  dsimp only
  split
  · rfl
  · split <;> rfl

theorem appendLengths_withBits (v : BitVec 4) (n : Nat) {s : State} (hc : s.cursor ≤ s.inq.length) :
    appendLengths v n (withBits later count waiting s) = withBits later count waiting (appendLengths v n s) := by
  have htaken : { commit (withBits later count waiting s) with
      lens := (withBits later count waiting s).lens ++ List.replicate n v } =
      withBits later count waiting { commit s with lens := s.lens ++ List.replicate n v } := by
    rw [commit_withBits later count waiting hc]
    rfl
  rcases Nat.lt_trichotomy (s.lens.length + n) (s.nlen.toNat + s.ndist.toNat) with hmore | hlast | hover
  · rw [appendLengths_of_more hmore, appendLengths_of_more (s := withBits later count waiting s) hmore]
    exact htaken
  · rw [appendLengths_of_last hlast, appendLengths_of_last (s := withBits later count waiting s) hlast, htaken]
    exact finishHeader_withBits later count waiting _ _
  · rw [appendLengths_of_overrun hover, appendLengths_of_overrun (s := withBits later count waiting s) hover]
    rfl

/-- The execution of an element does not look at the input behind the cursor (R230). -/
theorem exec_element_withBits {i : Instr} (h : (encode i).format ≠ .cmd) {s : State} (hc : s.cursor ≤ s.inq.length) :
    exec i (withBits later count waiting s) = mapNext (withBits later count waiting) (exec i s) := by
  have hcommit := commit_withBits later count waiting hc
  cases i with
  | reset | cinit | dinit | feed _ | flush | finish | cmdReserved00 | cmdReserved07 | cmdReserved080F _
  | cmdReserved101F _ | cmdReserved203F _ | cmdReserved407F _ | cmdReserved80FF _ => exact absurd rfl h
  | blockStored final =>
    exact congrArg (fun u => Host.Outcome.next { u with bfinal := final, dstate := .storedLen }) hcommit
  | blockDynamic final =>
    exact congrArg (fun u => Host.Outcome.next { u with bfinal := final, dstate := .dynHdr }) hcommit
  | blockFixed final =>
    exact congrArg (fun u => Host.Outcome.next
      { u with bfinal := final, dstate := .sym, lt := fixedLT, dt := fixedDT }) hcommit
  | eob => exact congrArg (fun u => Host.Outcome.next (endOfBlock u)) hcommit
  | blockReserved _ | litlenInvalid286_287 _ | distInvalid30_31 _ => rfl
  | lit000_127 b | lit128_143 b | lit144_159 b | lit160_191 b | lit192_255 b =>
    exact congrArg Host.Outcome.next (literal_withBits later count waiting b hc)
  | len257 x | len258 x | len259 x | len260 x | len261 x | len262 x | len263 x | len264 x | len265 x | len266 x
  | len267 x | len268 x | len269 x | len270 x | len271 x | len272 x | len273 x | len274 x | len275 x | len276 x
  | len277 x | len278 x | len279 x | len280 x | len281 x | len282 x | len283 x | len284 x | len285 x => rfl
  | dist0 x | dist1 x | dist2 x | dist3 x | dist4 x | dist5 x | dist6 x | dist7 x | dist8 x | dist9 x | dist10 x
  | dist11 x | dist12 x | dist13 x | dist14 x | dist15 x | dist16 x | dist17 x | dist18 x | dist19 x | dist20 x
  | dist21 x | dist22 x | dist23 x | dist24 x | dist25 x | dist26 x | dist27 x | dist28 x | dist29 x =>
    exact matchDistanceHalf_withBits later count waiting _ x hc
  | cl v => exact congrArg Host.Outcome.next (appendLengths_withBits later count waiting v 1 hc)
  | rep16 x =>
    have hlens : (withBits later count waiting s).lens = s.lens := rfl
    cases hv : s.lens.getLast? with
    | none =>
      have hnil := List.getLast?_eq_none_iff.mp hv
      rw [exec_rep16_of_nothing hnil, exec_rep16_of_nothing (hlens.trans hnil)]
      rfl
    | some v =>
      rw [exec_rep16_of_last hv, exec_rep16_of_last (hlens ▸ hv)]
      exact congrArg Host.Outcome.next (appendLengths_withBits later count waiting v _ hc)
  | repz17 x | repz18 x => exact congrArg Host.Outcome.next (appendLengths_withBits later count waiting 0 _ hc)

/-! ## Transitions -/

theorem commit_advance_withBits {s : State} {n : Nat} (hn : n ≤ (unread s).length) (hc : s.cursor ≤ s.inq.length) :
    commit (advance n (withBits later count waiting s)) = withBits later count waiting (commit (advance n s)) := by
  rw [length_unread] at hn
  exact commit_withBits later count waiting (s := advance n s) (by simp only [advance_cursor, advance_inq]; omega)

theorem storedLenStep_withBits {s t : State} (hc : s.cursor ≤ s.inq.length) (h : storedLenStep s = some t) :
    storedLenStep (withBits later count waiting s) = some (withBits later count waiting t) := by
  unfold storedLenStep at h
  split at h
  · next len nlen hlen hnlen =>
    have hlen2 := peekBits_length hnlen
    rw [List.length_drop] at hlen2
    have hfirst : peekBits 16 ((unread (withBits later count waiting s)).drop
        (alignInPad (withBits later count waiting s))) = some len := by
      rw [unread_withBits later count waiting hc]
      show peekBits 16 ((unread s ++ later).drop (alignInPad s)) = some len
      rw [List.drop_append_of_le_length (by omega)]
      exact peekBits_append later hlen
    have hsecond : peekBits 16 ((unread (withBits later count waiting s)).drop
        (alignInPad (withBits later count waiting s) + 16)) = some nlen := by
      rw [unread_withBits later count waiting hc]
      show peekBits 16 ((unread s ++ later).drop (alignInPad s + 16)) = some nlen
      rw [List.drop_append_of_le_length (by omega)]
      exact peekBits_append later hnlen
    have hcommit := commit_advance_withBits later count waiting (s := s) (n := alignInPad s + 32) (by omega) hc
    have hover : overLimit len (withBits later count waiting s) = overLimit len s := rfl
    have hpad : alignInPad (withBits later count waiting s) = alignInPad s := rfl
    unfold storedLenStep
    rw [hfirst, hsecond]
    dsimp only at h ⊢
    rw [hover, hpad, hcommit]
    split_ifs at h with hne hlimit hzero <;> cases h
    · rw [if_pos hne]; rfl
    · rw [if_neg hne, if_pos hlimit]; rfl
    · rw [if_neg hne, if_neg hlimit, if_pos hzero]; rfl
    · rw [if_neg hne, if_neg hlimit, if_neg hzero]; rfl
  · cases h

theorem storedCopyStep_withBits {s t : State} (hc : s.cursor ≤ s.inq.length) (h : storedCopyStep s = some t) :
    storedCopyStep (withBits later count waiting s) = some (withBits later count waiting t) := by
  unfold storedCopyStep at h
  split at h
  · cases h
  · next v hv =>
    have hread : peekBits 8 (unread (withBits later count waiting s)) = some v := by
      rw [unread_withBits later count waiting hc]
      exact peekBits_append later hv
    cases h
    unfold storedCopyStep
    rw [hread]
    dsimp only
    rw [commit_advance_withBits later count waiting (peekBits_length hv) hc, windowAppend_withBits,
      apply_ite (withBits later count waiting)]
    rfl

theorem dynHdrStep_withBits {s t : State} (hc : s.cursor ≤ s.inq.length) (h : dynHdrStep s = some t) :
    dynHdrStep (withBits later count waiting s) = some (withBits later count waiting t) := by
  unfold dynHdrStep at h
  split at h
  · cases h
  · next v hv =>
    have hread : peekBits 14 (unread (withBits later count waiting s)) = some v := by
      rw [unread_withBits later count waiting hc]
      exact peekBits_append later hv
    unfold dynHdrStep
    rw [hread]
    dsimp only at h ⊢
    rw [commit_advance_withBits later count waiting (peekBits_length hv) hc]
    split_ifs at h with hmany <;> cases h
    · rw [if_pos hmany]; rfl
    · rw [if_neg hmany]; rfl

theorem dynClStep_withBits {s t : State} (hc : s.cursor ≤ s.inq.length) (h : dynClStep s = some t) :
    dynClStep (withBits later count waiting s) = some (withBits later count waiting t) := by
  unfold dynClStep at h
  split at h
  · cases h
  · next v hv =>
    have hread : peekBits 3 (unread (withBits later count waiting s)) = some v := by
      rw [unread_withBits later count waiting hc]
      exact peekBits_append later hv
    have hcll : (withBits later count waiting s).cll = s.cll := rfl
    have hidx : (withBits later count waiting s).idx = s.idx := rfl
    unfold dynClStep
    rw [hread]
    dsimp only at h ⊢
    rw [commit_advance_withBits later count waiting (peekBits_length hv) hc, hcll, hidx]
    have hncode : (withBits later count waiting (commit (advance 3 s))).ncode = (commit (advance 3 s)).ncode := rfl
    rw [hncode]
    split_ifs at h with hlast
    · rw [if_pos hlast]
      split at h
      · next hT => cases h; rfl
      · next T hT => cases h; rfl
    · cases h
      rw [if_neg hlast]
      rfl

theorem plainStep_withBits {s t : State} (hc : s.cursor ≤ s.inq.length) (h : plainStep s = some t) :
    plainStep (withBits later count waiting s) = some (withBits later count waiting t) := by
  have hd : (withBits later count waiting s).dstate = s.dstate := rfl
  unfold plainStep at h ⊢
  rw [hd]
  cases hds : s.dstate <;> simp only [hds] at h ⊢
  case storedLen => exact storedLenStep_withBits later count waiting hc h
  case storedCopy => exact storedCopyStep_withBits later count waiting hc h
  case dynHdr => exact dynHdrStep_withBits later count waiting hc h
  case dynCl => exact dynClStep_withBits later count waiting hc h
  all_goals cases h

/-- A match whose distance symbol can be read can still be read with more bits behind (R128). -/
theorem distanceHolds_withBits {s : State} (hc : s.cursor ≤ s.inq.length) (h : distanceHolds s = false) :
    distanceHolds (withBits later count waiting s) = false := by
  have hp : (withBits later count waiting s).pendLen = s.pendLen := rfl
  unfold distanceHolds at h ⊢
  rw [hp]
  cases hpl : s.pendLen with
  | none => rfl
  | some length =>
    rw [hpl, Option.isSome_some, Bool.true_and] at h
    rw [Option.isSome_some, Bool.true_and]
    cases hf : fetchElement s with
    | none => rw [fetchElement_withBits_none later count waiting hf]
    | some f =>
      have hhold : f ≠ .hold := by
        rintro rfl
        rw [hf] at h
        cases h
      rw [fetchElement_withBits later count waiting hc hf hhold]
      cases f with
      | hold => exact absurd rfl hhold
      | element | unassigned | noSuchSymbol => rfl

end

end Sys2Proof.Machine

/-! PROOFS. FEED cut in two (spec 45_inflate R230, R299, 60_exceptions R330): the run on more input begins with the run
on less. -/

namespace Sys2Proof.Machine

/-! ## Transitions with more bits behind -/

/-- The bits read lie in the input. -/
def State.CursorFits (s : State) : Prop := s.cursor ≤ s.inq.length

theorem cursorFits_of_boundary {s : State} (h : s.AtBoundary) : s.CursorFits := h.1.trans_le (Nat.zero_le _)

theorem fetchElement_cursorFits {s t : State} {i : Instr} (hc : s.CursorFits)
    (hf : fetchElement s = some (.element i t)) : t.CursorFits := by
  obtain ⟨n, rfl, -, hn⟩ := fetchElement_reads hf
  rw [length_unread] at hn
  unfold State.CursorFits at hc ⊢
  rw [advance_cursor, advance_inq]
  omega

/-- A transition leaves the cursor in the input. -/
theorem decoderStep_cursorFits {s t : State} (hc : s.CursorFits) (hs : decoderStep exec s = some (.next t)) :
    t.CursorFits := by
  rcases decoderStep_cases hs with ⟨i, u, hf, he, -⟩ | ⟨-, rfl⟩ | ⟨-, hp⟩
  · rcases exec_element_ends (fetchElement_format hf).1 he with hb | ⟨-, k, x, rfl⟩
    · exact cursorFits_of_boundary hb
    · exact show u.CursorFits from fetchElement_cursorFits hc hf
  · exact cursorFits_of_boundary (raise_atBoundary _ _)
  · exact cursorFits_of_boundary (plainStep_atBoundary hp)

/-- A transition that is made is made the same with more bits behind (R128, R230). -/
theorem decoderStep_withBits (later : List Bool) (count : Nat) (waiting : Bool) {s t : State} (hc : s.CursorFits)
    (hs : decoderStep exec s = some (.next t)) :
    decoderStep exec (withBits later count waiting s) = some (.next (withBits later count waiting t)) := by
  have htc := decoderStep_cursorFits hc hs
  rcases decoderStep_cases hs with ⟨i, u, hf, he, hd⟩ | ⟨hf, rfl⟩ | ⟨hf, hp⟩
  · have hf' := fetchElement_withBits later count waiting hc hf (fun h => nomatch h)
    have he' : exec i (withBits later count waiting u) = .next (withBits later count waiting t) := by
      rw [exec_element_withBits later count waiting (fetchElement_format hf).1 (fetchElement_cursorFits hc hf), he]
      rfl
    rw [decoderStep_of_element hf', he']
    intro v hv
    rw [he'] at hv
    cases hv
    exact distanceHolds_withBits later count waiting htc hd
  · exact decoderStep_unassigned (fetchElement_withBits later count waiting hc hf (fun h => nomatch h))
  · rw [decoderStep_of_plain (fetchElement_withBits_none later count waiting hf),
      plainStep_withBits later count waiting hc hp]
    rfl

/-! ## A hold is at a boundary -/

/-- The decoder is at a boundary, or it has read the length symbol of a match whose distance symbol is there
(R258). -/
def State.Ready (s : State) : Prop := s.CursorFits ∧ (s.AtBoundary ∨ decoderStep exec s ≠ none)

theorem ready_of_boundary {s : State} (h : s.AtBoundary) : s.Ready := ⟨cursorFits_of_boundary h, .inl h⟩

theorem Ready.atBoundary_of_hold {s : State} (h : s.Ready) (hold : decoderStep exec s = none) : s.AtBoundary :=
  h.2.resolve_right (fun hne => hne hold)

/-- A length symbol is fetched only where no length waits, in the symbols of a block (R98). -/
theorem fetchElement_litlenSym {s t : State} {i : Instr} (hf : fetchElement s = some (.element i t))
    (hi : (encode i).format = .litlenSym) : s.dstate = .sym := by
  unfold fetchElement at hf
  split at hf
  · obtain ⟨v, -, hdec, -⟩ := fetchHeader_element (Option.some.inj hf)
    have hformat := decode_format hdec
    rw [hi] at hformat
    cases hformat
  · obtain ⟨y, n, x, -, -, hdec, -⟩ := fetchSymbol_element (Option.some.inj hf)
    have hformat := decode_format hdec
    rw [hi] at hformat
    cases hformat
  · next hd => exact hd
  all_goals cases hf

theorem distanceHolds_of_boundary {s : State} (h : s.AtBoundary) : distanceHolds s = false := by
  rw [distanceHolds, h.2]
  rfl

/-- Where a distance symbol is next and its bits are there, the transition is made (R258). -/
theorem decoderStep_of_pendLen {s : State} {length : Nat} (hd : s.dstate = .sym) (hp : s.pendLen = some length)
    (hh : distanceHolds s = false) : decoderStep exec s ≠ none := by
  have hf : fetchElement s = some (fetchSymbol .distSym s.dt s) := by simp only [fetchElement, hd, hp]
  cases hsym : fetchSymbol .distSym s.dt s with
  | hold =>
    rw [hsym] at hf
    rw [distanceHolds_of_hold (by rw [hp]; exact fun h => nomatch h) hf] at hh
    cases hh
  | element i t =>
    have hformat : (encode i).format = .distSym := by
      obtain ⟨y, n, x, -, -, hdec, -⟩ := fetchSymbol_element hsym
      exact decode_format hdec
    have hends (u : State) (he : exec i t = .next u) : distanceHolds u = false := by
      rcases exec_element_ends (by rw [hformat]; decide) he with hb | ⟨hl, -⟩
      · exact distanceHolds_of_boundary hb
      · rw [hformat] at hl
        cases hl
    rw [hsym] at hf
    rw [decoderStep_of_element hf hends]
    exact fun h => nomatch h
  | unassigned =>
    rw [hsym] at hf
    rw [decoderStep_unassigned hf]
    exact fun h => nomatch h
  | noSuchSymbol y =>
    rw [hsym] at hf
    rw [decoderStep, hf]
    exact fun h => nomatch h

/-- Every transition leaves the decoder ready (R230). -/
theorem decoderStep_ready {s t : State} (hc : s.CursorFits) (hs : decoderStep exec s = some (.next t)) : t.Ready := by
  refine ⟨decoderStep_cursorFits hc hs, ?_⟩
  rcases decoderStep_cases hs with ⟨i, u, hf, he, hd⟩ | ⟨-, rfl⟩ | ⟨-, hp⟩
  · rcases exec_element_ends (fetchElement_format hf).1 he with hb | ⟨hformat, k, x, rfl⟩
    · exact .inl hb
    · obtain ⟨n, rfl⟩ := fetchElement_element hf
      have hsym : s.dstate = .sym := fetchElement_litlenSym hf hformat
      exact .inr (decoderStep_of_pendLen (s := matchLengthHalf k x (advance n s)) hsym rfl hd)
  · exact .inl (raise_atBoundary _ _)
  · exact .inl (plainStep_atBoundary hp)

/-! ## Runs with more bits behind -/

/-- What a run says of its end: the decoder is ready there, and at a boundary with nothing more to read unless it has
ended (R128). -/
theorem RunsTo.ends {s t : State} (hrun : RunsTo s t) (h : s.Ready) :
    t.CursorFits ∧ (decoding t = true → t.AtBoundary ∧ decoderStep exec t = none) := by
  induction hrun with
  | stop hdec => exact ⟨h.1, fun hd => by rw [hdec] at hd; cases hd⟩
  | hold hdec hold =>
    have hb := Ready.atBoundary_of_hold h hold
    rw [rollback_of_boundary hb]
    exact ⟨h.1, fun _ => ⟨hb, hold⟩⟩
  | step hdec hs hrun ih => exact ih (decoderStep_ready h.1 hs)

/-- A run on less input is the beginning of the run on more (R128, R230). -/
theorem RunsTo.leadsTo_withBits {s t : State} (later : List Bool) (count : Nat) (waiting : Bool) (hrun : RunsTo s t)
    (h : s.Ready) : LeadsTo (withBits later count waiting s) (withBits later count waiting t) := by
  induction hrun with
  | stop hdec => exact .refl _
  | hold hdec hold =>
    rw [rollback_of_boundary (Ready.atBoundary_of_hold h hold)]
    exact .refl _
  | step hdec hs hrun ih =>
    exact .trans (.of_step hdec (decoderStep_withBits later count waiting h.1 hs)) (ih (decoderStep_ready h.1 hs))

theorem withBits_withBits (b₁ b₂ : List Bool) (n₁ n₂ : Nat) (w₁ w₂ : Bool) (s : State) :
    withBits b₂ n₂ w₂ (withBits b₁ n₁ w₁ s) = withBits (b₁ ++ b₂) n₂ w₂ s := by
  unfold withBits
  rw [List.append_assoc]

theorem withBits_same (s : State) : withBits [] s.totalIn s.pending s = s := by
  unfold withBits
  rw [List.append_nil]

/-- The two registers that FEED accounts the input with do not lead the decoder (R230). -/
theorem decoderStep_accounts {s : State} (count : Nat) (waiting : Bool) (h : s.CursorFits) (hT : s.TablesInv)
    (hold : decoderStep exec s = none) : decoderStep exec (withBits [] count waiting s) = none := by
  cases ho : decoderStep exec (withBits [] count waiting s) with
  | none => rfl
  | some o =>
    obtain ⟨t, rfl⟩ := decoderStep_completes (s := withBits [] count waiting s) hT ho
    have hfits : (withBits [] count waiting s).CursorFits := by
      show s.cursor ≤ (s.inq ++ []).length
      rwa [List.append_nil]
    have hback := decoderStep_withBits [] s.totalIn s.pending hfits ho
    rw [withBits_withBits, List.append_nil, withBits_same, hold] at hback
    cases hback

theorem RunsTo.tablesFit {s t : State} (hrun : RunsTo s t) (h : s.TablesFit) : t.TablesFit := by
  induction hrun with
  | stop | hold => exact h
  | step hdec hs hrun ih => exact ih (decoderStep_tablesFit h hs)

theorem RunsTo.mode {s t : State} (hrun : RunsTo s t) : t.mode = s.mode := by
  induction hrun with
  | stop | hold => rfl
  | @step s t u hdec hs hrun ih =>
    obtain ⟨n, hmove⟩ := decoderStep_move hs
    exact ih.trans hmove.mode

theorem RunsTo.totalIn {s t : State} (hrun : RunsTo s t) : t.totalIn = s.totalIn := by
  induction hrun with
  | stop | hold => rfl
  | @step s t u hdec hs hrun ih =>
    obtain ⟨n, hmove⟩ := decoderStep_move hs
    exact ih.trans hmove.totalIn

/-- A run of an open stream leaves it open or ends in a fault (R325). -/
theorem RunsTo.phase {s t : State} (hrun : RunsTo s t) : t.phase = s.phase ∨ t.phase = .fault := by
  induction hrun with
  | stop | hold => exact .inl rfl
  | @step s t u hdec hs hrun ih =>
    obtain ⟨n, hmove⟩ := decoderStep_move hs
    rcases ih with h | h
    · rcases hmove.phase with h' | h'
      · exact .inl (h.trans h')
      · exact .inr (h.trans h')
    · exact .inr h

/-- A run with other accounts is the same run (R230). -/
theorem RunsTo.accounts {s t : State} (count : Nat) (waiting : Bool) (hrun : RunsTo s t) (h : s.Ready)
    (hT : s.TablesFit) : RunsTo (withBits [] count waiting s) (withBits [] count waiting t) := by
  refine hrun.leadsTo_withBits [] count waiting h _ ?_
  cases hdec : decoding t with
  | false => exact .stop hdec
  | true =>
    obtain ⟨hfits, hend⟩ := hrun.ends h
    obtain ⟨hb, hold⟩ := hend hdec
    have hhold := decoderStep_accounts count waiting hfits (hrun.tablesFit hT).1 hold
    have hrun' : RunsTo (withBits [] count waiting t) (rollback (withBits [] count waiting t)) := .hold hdec hhold
    rwa [rollback_of_boundary (s := withBits [] count waiting t) hb] at hrun'

/-! ## FEED -/

theorem acceptInput_eq_withBits (chunk : List Byte) (s : State) :
    acceptInput chunk s = withBits (bytesBits chunk) (s.totalIn + chunk.length) s.pending s := rfl

/-- Two chunks in one are the first with the bits of the second behind it (R295). -/
theorem acceptInput_append (a b : List Byte) (s : State) : acceptInput (a ++ b) s =
    withBits (bytesBits b) (s.totalIn + (a ++ b).length) s.pending (acceptInput a s) := by
  rw [acceptInput_eq_withBits, acceptInput_eq_withBits, withBits_withBits, bytesBits_append]

theorem exec_feed_decompress (chunk : List Byte) {s t : State} (hp : s.phase = .active) (hm : s.mode = .decompress)
    (hrun : RunsTo (acceptInput chunk s) t) : exec (.feed chunk) s = .next (endCommand (settleDecode t)) := by
  show execFeed chunk s = _
  simp only [execFeed, hp, hm, feedDecompress, decodeStream_of_runsTo hrun]

theorem settleDecode_of_open {s : State} (h : s.phase ≠ .active ∨ s.dstate ≠ .done) : settleDecode s = s :=
  if_neg (by tauto)

theorem settleDecode_of_done {s : State} (hp : s.phase = .active) (hd : s.dstate = .done) :
    settleDecode s = { s with phase := .done, trail := s.trail || decide (8 ≤ s.inq.length) } := if_pos ⟨hp, hd⟩

/-- Whole bytes behind the end of a stream set the flag, whether they come with its end or later (R299). -/
theorem trail_append (trail : Bool) (bits : List Bool) (chunk : List Byte) :
    (trail || decide (8 ≤ (bits ++ bytesBits chunk).length)) =
      ((trail || decide (8 ≤ bits.length)) || !chunk.isEmpty) := by
  rw [List.length_append, length_bytesBits, Bool.or_assoc]
  cases chunk with
  | nil => simp
  | cons b bs => simp [show 8 ≤ bits.length + 8 * (bs.length + 1) by omega]

/-- What two ways to cut the input agree in (R230): all but the accounts of the input, and these too while the stream
is open. -/
def SameDecoding (u w : State) : Prop :=
  { u with inq := w.inq, totalIn := w.totalIn, pending := w.pending } = w ∧ (w.phase = .active → u = w)

/-- The decoder waits for more: the second FEED goes on where the first has held (R128). -/
theorem feed_of_waiting {a b : List Byte} {s t : State} (hp : s.phase = .active) (hm : s.mode = .decompress)
    (hready : (acceptInput a s).Ready) (hT : s.TablesFit) (hrun : RunsTo (acceptInput a s) t)
    (hdec : decoding t = true) :
    ∃ u w, exec (.feed b) (endCommand (settleDecode t)) = .next u ∧ exec (.feed (a ++ b)) s = .next w ∧
      SameDecoding u w := by
  obtain ⟨hmt, hpt, hdt⟩ := decoding_iff.mp hdec
  obtain ⟨hb, -⟩ := (hrun.ends hready).2 hdec
  have hTt : t.TablesFit := hrun.tablesFit (s := acceptInput a s) hT
  have hcount : t.totalIn + b.length = s.totalIn + (a ++ b).length := by
    rw [hrun.totalIn, acceptInput_totalIn, List.length_append, Nat.add_assoc]
  obtain ⟨v, hv⟩ := exists_runsTo (s := withBits (bytesBits b) (s.totalIn + (a ++ b).length) s.pending t) hTt
  have hrunw : RunsTo (acceptInput (a ++ b) s) v :=
    acceptInput_append a b s ▸ hrun.leadsTo_withBits (bytesBits b) _ s.pending hready v hv
  have haccept' : acceptInput b (endCommand t) = withBits [] (s.totalIn + (a ++ b).length) (pendingNow t)
      (withBits (bytesBits b) (s.totalIn + (a ++ b).length) s.pending t) := by
    rw [withBits_withBits, List.append_nil, ← hcount]
    rfl
  have hrunu : RunsTo (acceptInput b (endCommand t)) (withBits [] (s.totalIn + (a ++ b).length) (pendingNow t) v) :=
    haccept' ▸ hv.accounts _ _ (ready_of_boundary hb) hTt
  have htotal : v.totalIn = s.totalIn + (a ++ b).length := hv.totalIn
  have hsame : endCommand (settleDecode (withBits [] (s.totalIn + (a ++ b).length) (pendingNow t) v)) =
      endCommand (settleDecode v) := by
    rw [← htotal, withBits, List.append_nil]
    unfold settleDecode
    by_cases hend : v.phase = .active ∧ v.dstate = .done
    · rw [if_pos hend, if_pos hend]; rfl
    · rw [if_neg hend, if_neg hend]; rfl
  have hfeed := exec_feed_decompress b (s := endCommand t) hpt hmt hrunu
  rw [hsame] at hfeed
  rw [settleDecode_of_open (.inr hdt)]
  exact ⟨_, _, hfeed, exec_feed_decompress (a ++ b) hp hm hrunw, rfl, fun _ => rfl⟩

/-- No stream is open any more: the second FEED decodes nothing (R299, R327). -/
theorem feed_of_ended {a b : List Byte} {s t : State} (hp : s.phase = .active) (hm : s.mode = .decompress)
    (hready : (acceptInput a s).Ready) (hrun : RunsTo (acceptInput a s) t) (hdec : decoding t = false) :
    ∃ u w, exec (.feed b) (endCommand (settleDecode t)) = .next u ∧ exec (.feed (a ++ b)) s = .next w ∧
      SameDecoding u w := by
  have hrunw : RunsTo (acceptInput (a ++ b) s)
      (withBits (bytesBits b) (s.totalIn + (a ++ b).length) s.pending t) :=
    acceptInput_append a b s ▸ hrun.leadsTo_withBits (bytesBits b) _ s.pending hready _ (.stop hdec)
  have hfeed := exec_feed_decompress (a ++ b) hp hm hrunw
  have hmt : t.mode = .decompress := hrun.mode.trans hm
  rcases hrun.phase with hpt | hpt
  · replace hpt : t.phase = .active := hpt.trans hp
    have hdt : t.dstate = .done := by simpa [decoding, hmt, hpt] using hdec
    rw [settleDecode_of_done hpt hdt]
    rw [settleDecode_of_done (s := withBits _ _ _ t) hpt hdt] at hfeed
    refine ⟨_, _, rfl, hfeed, ?_, fun h => nomatch h⟩
    show { endCommand (withBits (bytesBits b) (s.totalIn + (a ++ b).length) s.pending t) with
      phase := .done, trail := (t.trail || decide (8 ≤ t.inq.length)) || !b.isEmpty } = _
    rw [← trail_append]
    rfl
  · rw [settleDecode_of_open (.inl (by rw [hpt]; decide))]
    have hpw : (withBits (bytesBits b) (s.totalIn + (a ++ b).length) s.pending t).phase = .fault := hpt
    rw [settleDecode_of_open (.inl (by rw [hpw]; decide))] at hfeed
    have hstays : exec (.feed b) (endCommand t) = .next (endCommand t) := by
      show execFeed b (endCommand t) = _
      rw [execFeed, show (endCommand t).phase = .fault from hpt]
    exact ⟨_, _, hstays, hfeed, rfl, fun h => absurd (hpt.symm.trans h) (by decide)⟩

/-- Settles O59: the run on the first chunk is the beginning of the run on both; it has held, and the second FEED goes
on, or it has ended, and what follows is not decoded. -/
theorem decompressIgnoresChunking : Obligations.DecompressIgnoresChunking := by
  intro a b s hp hm hb hT hH
  have hfit : s.TablesFit := ⟨hT, hH.1, hH.2.1⟩
  have hready : (acceptInput a s).Ready := ready_of_boundary (s := acceptInput a s) hb
  obtain ⟨t, hrun⟩ := exists_runsTo (s := acceptInput a s) hfit
  obtain ⟨u, w, hu, hw, hsame⟩ : ∃ u w, exec (.feed b) (endCommand (settleDecode t)) = .next u ∧
      exec (.feed (a ++ b)) s = .next w ∧ SameDecoding u w := by
    cases hdec : decoding t with
    | true => exact feed_of_waiting hp hm hready hfit hrun hdec
    | false => exact feed_of_ended hp hm hready hrun hdec
  exact ⟨_, u, w, exec_feed_decompress a hp hm hrun, hu, hw, hsame⟩

end Sys2Proof.Machine

/-! PROOFS. The history that both sides share (spec 10_state R27, 41_window R140 to R142, 46_checksum R280): what the
window, its counts and the checksum are after a byte sequence, and the bytes that a list of tokens stands for. -/

namespace Sys2Proof.Machine

/-! ## The history -/

/-- The window, its counts and the checksum are those of a stream that has taken the bytes `x` (R27, R62, R280): each
of the last `WSIZE` bytes stands at its position's ring address. -/
def History (x : List Byte) (s : State) : Prop :=
  SparseSorted s.win ∧ s.wpos = x.length % wsize s.params ∧ s.whave = min x.length (wsize s.params) ∧
    s.wtotal = x.length ∧ (s.s1.toNat, s.s2.toNat) = adlerSums x (1, 0) ∧
    ∀ p b, x[p]? = some b → x.length ≤ p + wsize s.params → winRead s.win (p % wsize s.params) = b

theorem wsize_pos (p : Params) : 0 < wsize p := Nat.two_pow_pos _

theorem adlerSums_append (as bs : List Byte) (sums : Nat × Nat) :
    adlerSums (as ++ bs) sums = adlerSums bs (adlerSums as sums) := List.foldl_append

/-- Appended bytes lengthen the history (R140, R141). -/
theorem History.append {x : List Byte} {s : State} (h : History x s) (bs : List Byte) :
    History (x ++ bs) (windowAppendAll bs s) := by
  obtain ⟨hsorted, hwpos, hwhave, hwtotal, hsums, hread⟩ := h
  have hpos : s.wpos < wsize s.params := hwpos ▸ Nat.mod_lt _ (wsize_pos _)
  have hring (k : Nat) : (s.wpos + k) % wsize s.params = (x.length + k) % wsize s.params := by
    rw [hwpos, Nat.mod_add_mod]
  have hlength : (x ++ bs).length = x.length + bs.length := List.length_append
  refine ⟨windowAppendAll_sorted bs hsorted, ?_, ?_, ?_, ?_, ?_⟩
  · rw [windowAppendAll_wpos bs hpos, windowAppendAll_params, hring, hlength]
  · rw [windowAppendAll_whave bs (by omega), windowAppendAll_params, hwhave, hlength]
    omega
  · rw [windowAppendAll_wtotal, hwtotal, hlength]
  · rw [windowAppendAll_sums, hsums, adlerSums_append]
  · intro p b hp hrecent
    rw [windowAppendAll_params, hlength] at hrecent
    rw [windowAppendAll_params]
    rcases Nat.lt_or_ge p x.length with hold | hnew
    · rw [List.getElem?_append_left hold] at hp
      rw [windowAppendAll_read_other hpos]
      · exact hread p b hp (by omega)
      · intro k hk
        rw [hring]
        have hne := ring_ne (w := wsize s.params) (base := 0) (i := p) (j := x.length + k) (by omega) (by omega)
        simpa only [Nat.zero_add] using hne.symm
    · rw [List.getElem?_append_right hnew] at hp
      have haddr : p % wsize s.params = (s.wpos + (p - x.length)) % wsize s.params := by
        rw [hring, Nat.add_sub_cancel' hnew]
      rw [haddr]
      exact windowAppendAll_read hsorted hpos hp (by omega)

/-- The checksum is a function of the bytes taken (R280). -/
theorem History.adler_eq {x : List Byte} {s t : State} (hs : History x s) (ht : History x t) : adler s = adler t := by
  obtain ⟨-, -, -, -, hsums, -⟩ := hs
  obtain ⟨-, -, -, -, htums, -⟩ := ht
  obtain ⟨h1, h2⟩ := Prod.mk.inj (hsums.trans htums.symm)
  rw [adler, adler, BitVec.eq_of_toNat_eq h1, BitVec.eq_of_toNat_eq h2]

/-! ## What tokens stand for -/

/-- Behind the bytes `x` a token stands for the bytes `y`, in a window of `w` bytes (R29, R142): a literal for itself,
a back-reference for as many bytes as it says, each of them the byte `distance` places before it. -/
def TokenStandsFor (w : Nat) (x : List Byte) (y : List Byte) : Token → Prop
  | .literal b => y = [b]
  | .backref length distance => y.length = length ∧ 3 ≤ length ∧ length ≤ 258 ∧
      1 ≤ distance ∧ distance ≤ min x.length w ∧
      ∀ k < length, (x ++ y)[x.length - distance + k]? = y[k]?

/-- Behind the bytes `x` a list of tokens stands for the bytes `y` (R201). -/
inductive Expands (w : Nat) : List Byte → List Token → List Byte → Prop where
  | nil (x : List Byte) : Expands w x [] []
  | cons {x y z : List Byte} {t : Token} {toks : List Token} (ht : TokenStandsFor w x y t)
      (hrest : Expands w (x ++ y) toks z) : Expands w x (t :: toks) (y ++ z)

theorem Expands.concat {w : Nat} {x y z : List Byte} {toks : List Token} {t : Token} (h : Expands w x toks y)
    (ht : TokenStandsFor w (x ++ y) z t) : Expands w x (toks ++ [t]) (y ++ z) := by
  induction h with
  | nil x =>
    rw [List.append_nil] at ht
    have hone := Expands.cons ht (.nil _)
    rwa [List.append_nil] at hone
  | @cons x y₁ y₂ t₁ toks h₁ hrest ih =>
    rw [List.append_assoc, List.cons_append]
    refine .cons h₁ (ih ?_)
    rwa [List.append_assoc]

/-! ## The copy of a match -/

/-- The byte `distance` before the end of the history, read from the window (R142). -/
theorem History.read_copySource {x : List Byte} {s : State} {distance : Nat} {b : Byte} (h : History x s)
    (hle : distance ≤ min x.length (wsize s.params))
    (hb : x[x.length - distance]? = some b) : winRead s.win (copySource distance s) = b := by
  obtain ⟨-, hwpos, -, -, -, hread⟩ := h
  have haddr : copySource distance s = (x.length - distance) % wsize s.params := by
    have hsource := copySource_eq (distance := distance) (n := 0) (s := s) (t := s) (by omega) rfl
      (by rw [hwpos, Nat.add_zero, Nat.mod_mod])
    rw [hsource, hwpos, Nat.mod_add_mod,
      show x.length + (0 + wsize s.params - distance) = x.length - distance + wsize s.params by omega,
      Nat.add_mod_right]
  rw [haddr]
  exact hread _ b hb (by omega)

/-- A copy appends the bytes that a back-reference stands for (R142). -/
theorem History.windowCopy {w distance : Nat} {x y : List Byte} {s : State} (h : History x s)
    (hw : wsize s.params = w) (hd : 1 ≤ distance) (hle : distance ≤ min x.length w)
    (hy : ∀ k < y.length, (x ++ y)[x.length - distance + k]? = y[k]?) :
    Machine.windowCopy distance y.length s = windowAppendAll y s := by
  induction y generalizing x s with
  | nil => rfl
  | cons b y ih =>
    have hfirst : x[x.length - distance]? = some b := by
      have h0 := hy 0 (Nat.succ_pos _)
      rwa [Nat.add_zero, List.getElem?_append_left (by omega)] at h0
    have hbyte : copyByte distance s = windowAppend b s := by
      rw [copyByte, h.read_copySource (hw ▸ hle) hfirst]
    rw [List.length_cons, Machine.windowCopy, hbyte, windowAppendAll_cons]
    refine ih (h.append [b]) (by rwa [windowAppend_params]) ?_ fun k hk => ?_
    · rw [List.length_append, List.length_singleton]
      omega
    · have hnext := hy (k + 1) (Nat.succ_lt_succ hk)
      rw [List.getElem?_cons_succ] at hnext
      rw [← hnext, List.append_assoc, List.singleton_append, List.length_append, List.length_singleton]
      congr 1
      omega

end Sys2Proof.Machine

/-! PROOFS. The decoder on the bits of a token (spec 30_encoding R91, R93, R96, 44_block_encoder R216, 45_inflate R254
to R259): it appends the bytes that the token stands for. -/

namespace Sys2Proof.Machine

/-! ## The decoder between two elements -/

/-- The decoder of a stream opened at `d0` has produced the bytes `x`, stands at stream position `pos` between two
steps, and has the bits `bits` before it (R27, R230, R236). -/
def DecoderAt (d0 : State) (x : List Byte) (pos : Nat) (bits : List Bool) (d : State) : Prop :=
  (d.mode = .decompress ∧ d.phase = .active ∧ d.AtBoundary ∧ d.err = none) ∧ (d.inq = bits ∧ d.bitposIn = pos) ∧
    History x d ∧ (d.out = d0.out ++ x ∧ d.totalOut = x.length) ∧ d.params = d0.params ∧ d.outLimit = d0.outLimit

section
variable {d0 d : State} {x : List Byte} {pos : Nat} {bits rest : List Bool}

theorem DecoderAt.atBoundary (h : DecoderAt d0 x pos bits d) : d.AtBoundary := by
  obtain ⟨⟨-, -, hb, -⟩, -⟩ := h
  exact hb

theorem DecoderAt.decoding (h : DecoderAt d0 x pos bits d) (hd : d.dstate ≠ .done) : decoding d = true := by
  obtain ⟨⟨hm, hp, -, -⟩, -⟩ := h
  exact decoding_iff.mpr ⟨hm, hp, hd⟩

theorem DecoderAt.unread (h : DecoderAt d0 x pos bits d) : unread d = bits := by
  have hb := h.atBoundary
  obtain ⟨-, ⟨hinq, -⟩, -⟩ := h
  rw [unread_of_boundary hb, hinq]

/-- A step that reads some bits and appends some bytes (R140, R230). -/
theorem DecoderAt.consume (h : DecoderAt d0 x pos (bits ++ rest) d) (y : List Byte) :
    DecoderAt d0 (x ++ y) (pos + bits.length) rest (windowAppendAll y (commit (advance bits.length d))) := by
  obtain ⟨⟨hm, hp, hb, he⟩, ⟨hinq, hpos⟩, hist, ⟨hout, htotal⟩, hparams, hlimit⟩ := h
  have hcommit := commit_advance_of_boundary bits.length hb
  have hist' : History x (commit (advance bits.length d)) := hist
  obtain ⟨hout', htotal'⟩ := windowAppendAll_output y (s := commit (advance bits.length d)) hm
  have hinq' : (commit (advance bits.length d)).inq = rest := by
    rw [hcommit, hinq]
    exact List.drop_left
  have hpos' : (commit (advance bits.length d)).bitposIn = pos + bits.length := by rw [hcommit, hpos]
  refine ⟨?_, ?_, hist'.append y, ⟨?_, ?_⟩, ?_⟩
  · rw [windowAppendAll_frame y]
    exact ⟨hm, hp, commit_atBoundary (advance bits.length d), he⟩
  · rw [windowAppendAll_frame y]
    exact ⟨hinq', hpos'⟩
  · rw [hout', ← List.append_assoc]
    exact congrArg (· ++ y) hout
  · rw [htotal', List.length_append]
    exact congrArg (· + y.length) htotal
  · rw [windowAppendAll_frame y]
    exact ⟨hparams, hlimit⟩

/-- A step that reads some bits and produces nothing (R230). -/
theorem DecoderAt.skip (h : DecoderAt d0 x pos (bits ++ rest) d) :
    DecoderAt d0 x (pos + bits.length) rest (commit (advance bits.length d)) := by
  have hnone := h.consume []
  rwa [List.append_nil] at hnone

/-- There is room under the cap for what is still to come (R236). -/
theorem DecoderAt.fits {y : List Byte} (h : DecoderAt d0 x pos bits d)
    (hcap : (x ++ y).length ≤ d0.outLimit.toNat) : d.totalOut + y.length ≤ d.outLimit.toNat := by
  obtain ⟨-, -, -, ⟨-, htotal⟩, -, hlimit⟩ := h
  rw [htotal, hlimit, ← List.length_append]
  exact hcap

end

/-- An element that is fetched and executed is a transition of the run (R230). -/
theorem leadsTo_of_element {s t u : State} {i : Instr} (hdec : decoding s = true)
    (hf : fetchElement s = some (.element i t)) (he : exec i t = .next u) (hd : distanceHolds u = false) :
    LeadsTo s u := by
  refine .of_step hdec ?_
  rw [decoderStep_of_element hf, he]
  intro v hv
  rw [he] at hv
  cases hv
  exact hd

theorem leadsTo_of_plain {s t : State} (hdec : decoding s = true) (hf : fetchElement s = none)
    (hp : plainStep s = some t) : LeadsTo s t := by
  refine .of_step hdec ?_
  rw [decoderStep_of_plain hf, hp]
  rfl

/-! ## Lengths that a decode table is built from -/

/-- The lengths are those of a code that a decode table can be built for (R171, R186). -/
def Decodable (lens : List Nat) : Prop := (∀ l ∈ lens, l ≤ 15) ∧ overSubscribed lens = false

/-- The decoder reads the symbols of a block with the tables of these lengths (R254). -/
def InSymbols (ll dl : List Nat) (final : Bool) (d : State) : Prop :=
  d.dstate = .sym ∧ d.lt = rawTable ll ∧ d.dt = rawTable dl ∧ d.bfinal = final

section
variable {d : State} {ll dl : List Nat} {final : Bool} {rest : List Bool}

theorem InSymbols.fetchElement (h : InSymbols ll dl final d) (hp : d.pendLen = none) :
    fetchElement d = some (fetchSymbol .litlenSym (rawTable ll) d) := by
  obtain ⟨hd, hlt, -⟩ := h
  simp only [Machine.fetchElement, hd, hp, hlt]

/-- A literal/length symbol without extra bits (R85, R90). -/
theorem fetchSymbol_codeBits {i : Instr} {y : Nat} (hll : Decodable ll) (hy : ll.getD y 0 ≠ 0) (hlit : y < 257)
    (hdecode : decode ⟨.litlenSym, y, 0, []⟩ = .ok i)
    (hbits : unread d = codeBits ll (assignCanonicalCodes ll) y ++ rest) :
    fetchSymbol .litlenSym (rawTable ll) d =
      .element i (advance (codeBits ll (assignCanonicalCodes ll) y).length d) := by
  obtain ⟨hlens, hover⟩ := hll
  have hwidth : extraWidth .litlenSym y = 0 := if_neg (by omega)
  have hsym : symbolBits ll .litlenSym y 0 = codeBits ll (assignCanonicalCodes ll) y := by
    rw [symbolBits, hwidth]
    exact List.append_nil _
  rw [← hsym]
  exact fetchSymbol_symbolBits hlens hover hy (by rw [hwidth]; decide) (extraAsked_eq fun hf => nomatch hf) hdecode
    (by rw [hbits, hsym])

/-- A length symbol and its extra field (R91, R96). -/
theorem fetchSymbol_lengthBits {k extra : Nat} (hll : Decodable ll) (hy : ll.getD (257 + k) 0 ≠ 0) (hk : k < 29)
    (hx : extra < 2 ^ lenExtra.getD k 0)
    (hbits : unread d = codeBits ll (assignCanonicalCodes ll) (257 + k) ++ bitsLSB extra (lenExtra.getD k 0) ++ rest) :
    ∃ i n, fetchSymbol .litlenSym (rawTable ll) d = .element i (advance n d) ∧
      n = (codeBits ll (assignCanonicalCodes ll) (257 + k) ++ bitsLSB extra (lenExtra.getD k 0)).length ∧
      ∀ s, exec i s = .next { s with pendLen := some (lengthOf k extra) } := by
  obtain ⟨hlens, hover⟩ := hll
  obtain ⟨row, hrow⟩ : ∃ row, lenRows[k]? = some row := ⟨_, List.getElem?_eq_getElem hk⟩
  have hextra : (BitVec.ofNat 5 extra).toNat = extra :=
    toNat_ofNat_of_fits hx (getD_le_of_forall_le (m := 5) (by decide) _)
  have hwidth : extraWidth .litlenSym (257 + k) = lenExtra.getD k 0 := by
    rw [extraWidth, if_pos (Nat.le_add_right _ _), Nat.add_sub_cancel_left]
  have hdecode : decode ⟨.litlenSym, 257 + k, extra, []⟩ = .ok (row (.ofNat 5 extra)) := by
    have hrowdec := decode_lenRow (x := .ofNat 5 extra) hrow (by rw [lenExtraFits, hextra, decide_eq_true hx])
    rwa [hextra, Nat.add_comm] at hrowdec
  have hsym : symbolBits ll .litlenSym (257 + k) extra =
      codeBits ll (assignCanonicalCodes ll) (257 + k) ++ bitsLSB extra (lenExtra.getD k 0) := by
    rw [symbolBits, hwidth]
    rfl
  obtain ⟨-, -, hexec⟩ := lenRow_eq hrow (.ofNat 5 extra)
  refine ⟨_, _, fetchSymbol_symbolBits hlens hover hy (by rwa [hwidth]) (extraAsked_eq fun hf => nomatch hf) hdecode
    (by rw [hbits, hsym]), congrArg List.length hsym, fun s => ?_⟩
  rw [hexec, matchLengthHalf, hextra]

/-- A distance symbol and its extra field (R93, R96). -/
theorem fetchSymbol_distanceBits {j extra : Nat} (hdl : Decodable dl) (hy : dl.getD j 0 ≠ 0) (hj : j < 30)
    (hx : extra < 2 ^ distExtra.getD j 0)
    (hbits : unread d = codeBits dl (assignCanonicalCodes dl) j ++ bitsLSB extra (distExtra.getD j 0) ++ rest) :
    ∃ i n, fetchSymbol .distSym (rawTable dl) d = .element i (advance n d) ∧
      n = (codeBits dl (assignCanonicalCodes dl) j ++ bitsLSB extra (distExtra.getD j 0)).length ∧
      ∀ s length, s.pendLen = some length → exec i s = .next (copyMatch length (distanceOf j extra) s) := by
  obtain ⟨hlens, hover⟩ := hdl
  obtain ⟨row, hrow⟩ : ∃ row, distRows[j]? = some row := ⟨_, List.getElem?_eq_getElem hj⟩
  have hextra : (BitVec.ofNat 13 extra).toNat = extra :=
    toNat_ofNat_of_fits hx (getD_le_of_forall_le (m := 13) (by decide) _)
  have hdecode : decode ⟨.distSym, j, extra, []⟩ = .ok (row (.ofNat 13 extra)) := by
    have hrowdec := decode_distRow (x := .ofNat 13 extra) hrow (by rw [distExtraFits, hextra, decide_eq_true hx])
    rwa [hextra] at hrowdec
  have hsym : symbolBits dl .distSym j extra =
      codeBits dl (assignCanonicalCodes dl) j ++ bitsLSB extra (distExtra.getD j 0) := rfl
  obtain ⟨-, -, hexec⟩ := distRow_eq hrow (.ofNat 13 extra)
  refine ⟨_, _, fetchSymbol_symbolBits hlens hover hy hx (extraAsked_eq fun hf => nomatch hf) hdecode
    (by rw [hbits, hsym]), congrArg List.length hsym, fun s length hp => ?_⟩
  simp only [hexec, matchDistanceHalf, hp, hextra]

end

/-! ## Symbol indices -/

/-- In an ascending table the entries that are not above `v` are those before their count (R96). -/
theorem le_iff_lt_countP {table : List Nat} {k v b : Nat} (hsorted : table.Pairwise (· < ·))
    (hk : table[k]? = some b) : b ≤ v ↔ k < table.countP (· ≤ v) := by
  induction table generalizing k with
  | nil => simp at hk
  | cons a l ih =>
    obtain ⟨ha, hrest⟩ := List.pairwise_cons.mp hsorted
    by_cases hav : a ≤ v
    · rw [List.countP_cons_of_pos (by simpa using hav)]
      cases k with
      | zero => cases hk; omega
      | succ k => rw [ih hrest hk]; omega
    · have hnone : l.countP (· ≤ v) = 0 := by
        rw [List.countP_eq_zero]
        intro c hc
        have := ha c hc
        rw [decide_eq_true_eq]
        omega
      rw [List.countP_cons_of_neg (by simpa using hav), hnone]
      cases k with
      | zero => cases hk; omega
      | succ k => rw [ih hrest hk, hnone]; omega

/-- The last entry of an ascending table that is not above `v`, and the one behind it (R96). -/
theorem lastIndexLE_spec {table : List Nat} {v first : Nat} (hsorted : table.Pairwise (· < ·))
    (hfirst : table[0]? = some first) (hle : first ≤ v) :
    table.getD (lastIndexLE table v) 0 ≤ v ∧
      ∀ b, table[lastIndexLE table v + 1]? = some b → v < b := by
  have hpos : 0 < table.countP (· ≤ v) := (le_iff_lt_countP hsorted hfirst).mp hle
  have hcount : table.countP (· ≤ v) ≤ table.length := List.countP_le_length
  have hlt : lastIndexLE table v < table.length := by rw [lastIndexLE]; omega
  constructor
  · rw [List.getD_eq_getElem _ _ hlt]
    exact (le_iff_lt_countP hsorted (List.getElem?_eq_getElem hlt)).mpr (by rw [lastIndexLE]; omega)
  · intro b hb
    have habove := mt (le_iff_lt_countP hsorted hb (v := v)).mp (by rw [lastIndexLE]; omega)
    omega

/-- A length is the base of its symbol plus an extra value that fits (R91, R96). -/
theorem lenIndex_spec {length : Nat} (hlo : 3 ≤ length) (hhi : length ≤ 258) :
    lenIndex length < 29 ∧ lengthOf (lenIndex length) (length - lenBase.getD (lenIndex length) 0) = length ∧
      length - lenBase.getD (lenIndex length) 0 < 2 ^ lenExtra.getD (lenIndex length) 0 := by
  have hlt : lenIndex length < 29 := lastIndexLE_lt (by decide) length
  obtain ⟨hbase, hnext⟩ := lastIndexLE_spec (table := lenBase) (v := length) (by decide) rfl hlo
  change lenBase.getD (lenIndex length) 0 ≤ length at hbase
  have hspan : ∀ k < 28, ∃ b, lenBase[k + 1]? = some b ∧ b ≤ lenBase.getD k 0 + 2 ^ lenExtra.getD k 0 := by decide
  refine ⟨hlt, by rw [lengthOf]; omega, ?_⟩
  rcases Nat.lt_or_ge (lenIndex length) 28 with hinner | hlast
  · obtain ⟨b, hb, hle⟩ := hspan _ hinner
    have := hnext b hb
    omega
  · obtain heq : lenIndex length = 28 := by omega
    have hbase' : lenBase.getD 28 0 = 258 := by decide
    have hextra' : lenExtra.getD 28 0 = 0 := by decide
    rw [heq, hbase', hextra']
    omega

/-- A distance is the base of its symbol plus an extra value that fits (R93, R96). -/
theorem distIndex_spec {distance : Nat} (hlo : 1 ≤ distance) (hhi : distance ≤ 32768) :
    distIndex distance < 30 ∧
      distanceOf (distIndex distance) (distance - distBase.getD (distIndex distance) 0) = distance ∧
      distance - distBase.getD (distIndex distance) 0 < 2 ^ distExtra.getD (distIndex distance) 0 := by
  have hlt : distIndex distance < 30 := lastIndexLE_lt (by decide) distance
  obtain ⟨hbase, hnext⟩ := lastIndexLE_spec (table := distBase) (v := distance) (by decide) rfl hlo
  change distBase.getD (distIndex distance) 0 ≤ distance at hbase
  have hspan : ∀ k < 29, ∃ b, distBase[k + 1]? = some b ∧ b ≤ distBase.getD k 0 + 2 ^ distExtra.getD k 0 := by decide
  refine ⟨hlt, by rw [distanceOf]; omega, ?_⟩
  rcases Nat.lt_or_ge (distIndex distance) 29 with hinner | hlast
  · obtain ⟨b, hb, hle⟩ := hspan _ hinner
    have := hnext b hb
    omega
  · obtain heq : distIndex distance = 29 := by omega
    have hbase' : distBase.getD 29 0 = 24577 := by decide
    have hextra' : distExtra.getD 29 0 = 13 := by decide
    rw [heq, hbase', hextra']
    omega

/-! ## The tokens of a block -/

/-- Both symbols of a token have a code (R216). -/
def TokenHasCode (ll dl : List Nat) (t : Token) : Prop :=
  ll.getD (litLenSymbol t) 0 ≠ 0 ∧ ∀ j, distSymbol t = some j → dl.getD j 0 ≠ 0

section
variable {d0 d : State} {x y : List Byte} {pos : Nat} {rest : List Bool} {ll dl : List Nat} {final : Bool}

theorem InSymbols.of_append (h : InSymbols ll dl final d) (n : Nat) (y : List Byte) :
    InSymbols ll dl final (windowAppendAll y (commit (advance n d))) := by
  obtain ⟨hd, hlt, hdt, hfinal⟩ := h
  rw [windowAppendAll_frame y]
  exact ⟨hd, hlt, hdt, hfinal⟩

theorem decode_literal (b : Byte) : ∃ i, decode ⟨.litlenSym, b.toNat, 0, []⟩ = .ok i ∧
    i ∈ ([.lit000_127 b, .lit128_143 b, .lit144_159 b, .lit160_191 b, .lit192_255 b] : List Instr) := by
  have hb := b.isLt
  have hbyte : BitVec.ofNat 8 b.toNat = b := by rw [BitVec.ofNat_toNat, BitVec.setWidth_eq]
  show ∃ i, decodeLitLen b.toNat 0 = .ok i ∧ _
  unfold decodeLitLen
  rw [hbyte]
  split_ifs with h1 h2 h3 h4 h5
  · exact ⟨_, rfl, by simp⟩
  · exact ⟨_, rfl, by simp⟩
  · exact ⟨_, rfl, by simp⟩
  · exact ⟨_, rfl, by simp⟩
  · exact ⟨_, rfl, by simp⟩
  all_goals omega

/-- The decoder on the code of a literal (R255). -/
theorem leadsTo_literal {b : Byte} (hll : Decodable ll) (hcode : ll.getD b.toNat 0 ≠ 0)
    (hcap : (x ++ [b]).length ≤ d0.outLimit.toNat)
    (h : DecoderAt d0 x pos (codeBits ll (assignCanonicalCodes ll) b.toNat ++ rest) d)
    (hd : InSymbols ll dl final d) :
    LeadsTo d (windowAppendAll [b] (commit (advance (codeBits ll (assignCanonicalCodes ll) b.toNat).length d))) := by
  have hdec := h.decoding (by rw [hd.1]; decide)
  obtain ⟨i, hdecode, hi⟩ := decode_literal b
  have hf := hd.fetchElement h.atBoundary.2
  rw [fetchSymbol_codeBits hll hcode (b.isLt.trans (by decide)) hdecode h.unread] at hf
  refine leadsTo_of_element hdec hf ?_ ?_
  · rw [exec_of_mem_literals hi, literal_of_fits]
    · rfl
    · exact h.fits hcap
  · refine distanceHolds_of_boundary ?_
    rw [windowAppendAll_frame]
    exact commit_atBoundary (advance (codeBits ll (assignCanonicalCodes ll) b.toNat).length d)

/-- The decoder on the code of the end of a block (R259). -/
theorem leadsTo_endOfBlock (hll : Decodable ll) (hcode : ll.getD 256 0 ≠ 0)
    (h : DecoderAt d0 x pos (codeBits ll (assignCanonicalCodes ll) 256 ++ rest) d) (hd : InSymbols ll dl final d) :
    LeadsTo d (endOfBlock (commit (advance (codeBits ll (assignCanonicalCodes ll) 256).length d))) := by
  have hdec := h.decoding (by rw [hd.1]; decide)
  have hf := hd.fetchElement h.atBoundary.2
  rw [fetchSymbol_codeBits (i := .eob) hll hcode (by decide) rfl h.unread] at hf
  have hb := commit_atBoundary (advance (codeBits ll (assignCanonicalCodes ll) 256).length d)
  exact leadsTo_of_element hdec hf rfl (distanceHolds_of_boundary hb)

/-- The decoder has read the length symbol of a match in `n` bits (R258). -/
def awaitDistance (length n : Nat) (d : State) : State := { advance n d with pendLen := some length }

theorem unread_awaitDistance (length n : Nat) (d : State) : unread (awaitDistance length n d) = (unread d).drop n := by
  rw [unread, unread, List.drop_drop]
  rfl

theorem commit_awaitDistance (length n m : Nat) (d : State) :
    commit (advance m (awaitDistance length n d)) = commit (advance (n + m) d) := by
  simp only [awaitDistance, commit, advance, Nat.add_assoc]

theorem InSymbols.fetchElement_awaitDistance (h : InSymbols ll dl final d) (length n : Nat) :
    Machine.fetchElement (awaitDistance length n d) =
      some (fetchSymbol .distSym (rawTable dl) (awaitDistance length n d)) := by
  obtain ⟨hd, -, hdt, -⟩ := h
  rw [← hdt]
  simp only [Machine.fetchElement, awaitDistance, advance, hd]

/-- The copy of a match that both symbols have been read of (R258). -/
theorem copyMatch_awaitDistance {bits : List Bool} {distance n m : Nat}
    (ht : TokenStandsFor (wsize d0.params) x y (.backref y.length distance))
    (hcap : (x ++ y).length ≤ d0.outLimit.toNat) (h : DecoderAt d0 x pos bits d) :
    copyMatch y.length distance (advance m (awaitDistance y.length n d)) =
      windowAppendAll y (commit (advance (n + m) d)) := by
  obtain ⟨-, -, -, hpos, hle, hcopy⟩ := ht
  have hroom := h.fits hcap
  obtain ⟨-, -, hist, -, hparams, -⟩ := h
  have hhave : distance ≤ d.whave := by
    obtain ⟨-, -, hwhave, -⟩ := hist
    rw [hwhave, hparams]
    exact hle
  rw [copyMatch_of_fits (s := advance m (awaitDistance y.length n d)) hhave hroom, commit_awaitDistance]
  exact History.windowCopy (s := commit (advance (n + m) d)) hist (congrArg wsize hparams) hpos hle hcopy

/-- The decoder on the two symbols of a match (R258): the length half waits for the distance half, which copies. -/
theorem leadsTo_match {length distance : Nat} (hw : wsize d0.params ≤ 32768) (hll : Decodable ll)
    (hdl : Decodable dl) (hcode : TokenHasCode ll dl (.backref length distance))
    (ht : TokenStandsFor (wsize d0.params) x y (.backref length distance))
    (hcap : (x ++ y).length ≤ d0.outLimit.toNat)
    (h : DecoderAt d0 x pos (tokenBits ll (assignCanonicalCodes ll) dl (assignCanonicalCodes dl)
      (.backref length distance) ++ rest) d) (hd : InSymbols ll dl final d) :
    LeadsTo d (windowAppendAll y (commit (advance (tokenBits ll (assignCanonicalCodes ll) dl (assignCanonicalCodes dl)
      (.backref length distance)).length d))) := by
  obtain ⟨rfl, hlo, hhi, hdlo, hdhi, -⟩ := id ht
  obtain ⟨hk, hlength, hlextra⟩ := lenIndex_spec hlo hhi
  obtain ⟨hj, hdistance, hdextra⟩ := distIndex_spec (distance := distance) hdlo (by omega)
  obtain ⟨hlcode, hdcode⟩ := hcode
  have hbits := h.unread
  rw [tokenBits, List.append_assoc _ (codeBits dl _ _), List.append_assoc] at hbits
  obtain ⟨i, n, hfetch, hn, hexec⟩ := fetchSymbol_lengthBits hll hlcode hk hlextra hbits
  obtain ⟨j, m, hfetch', hm, hexec'⟩ := fetchSymbol_distanceBits (d := awaitDistance y.length n d) hdl (hdcode _ rfl)
    hj hdextra (by rw [unread_awaitDistance, hbits, hn, List.drop_left])
  have hread : (tokenBits ll (assignCanonicalCodes ll) dl (assignCanonicalCodes dl) (.backref y.length distance)).length
      = n + m := by
    rw [tokenBits, List.append_assoc _ (codeBits dl _ _), List.length_append, ← hn, ← hm]
  have hdec := h.decoding (by rw [hd.1]; decide)
  have hf := hd.fetchElement h.atBoundary.2
  rw [hfetch] at hf
  have hf' := hd.fetchElement_awaitDistance y.length n
  rw [hfetch'] at hf'
  have hexec1 : exec i (advance n d) = .next (awaitDistance y.length n d) := by rw [hexec, hlength]; rfl
  have hexec2 : exec j (advance m (awaitDistance y.length n d)) =
      .next (windowAppendAll y (commit (advance (n + m) d))) := by
    rw [hexec' _ y.length rfl, hdistance, copyMatch_awaitDistance ht hcap h]
  have hholds : distanceHolds (awaitDistance y.length n d) = false := by
    rw [distanceHolds, hf']
    rfl
  have hends : distanceHolds (windowAppendAll y (commit (advance (n + m) d))) = false := by
    refine distanceHolds_of_boundary ?_
    rw [windowAppendAll_frame y]
    exact commit_atBoundary (advance (n + m) d)
  rw [hread]
  exact (leadsTo_of_element hdec hf hexec1 hholds).trans
    (leadsTo_of_element (s := awaitDistance y.length n d) hdec hf' hexec2 hends)

/-- The decoder on the bits of a token: it appends what the token stands for (R254). -/
theorem leadsTo_token {t : Token} (hw : wsize d0.params ≤ 32768) (hll : Decodable ll) (hdl : Decodable dl)
    (hcode : TokenHasCode ll dl t) (ht : TokenStandsFor (wsize d0.params) x y t)
    (hcap : (x ++ y).length ≤ d0.outLimit.toNat)
    (h : DecoderAt d0 x pos (tokenBits ll (assignCanonicalCodes ll) dl (assignCanonicalCodes dl) t ++ rest) d)
    (hd : InSymbols ll dl final d) :
    LeadsTo d (windowAppendAll y (commit (advance
      (tokenBits ll (assignCanonicalCodes ll) dl (assignCanonicalCodes dl) t).length d))) := by
  cases t with
  | literal b =>
    obtain rfl := ht
    exact leadsTo_literal hll hcode.1 hcap h hd
  | backref length distance => exact leadsTo_match hw hll hdl hcode ht hcap h hd

theorem tokensBits_cons (ll llcode dl dcode : List Nat) (t : Token) (toks : List Token) :
    tokensBits ll llcode dl dcode (t :: toks) =
      tokenBits ll llcode dl dcode t ++ tokensBits ll llcode dl dcode toks := by
  rw [tokensBits, List.flatMap_cons, List.append_assoc]
  rfl

/-- The decoder on the symbols of a block (R254, R259): it appends what the tokens stand for and ends the block. -/
theorem leadsTo_tokens {toks : List Token} (hw : wsize d0.params ≤ 32768) (hll : Decodable ll) (hdl : Decodable dl)
    (hcode : ∀ t ∈ toks, TokenHasCode ll dl t) (heob : ll.getD 256 0 ≠ 0) (hx : Expands (wsize d0.params) x toks y)
    (hcap : (x ++ y).length ≤ d0.outLimit.toNat)
    (h : DecoderAt d0 x pos
      (tokensBits ll (assignCanonicalCodes ll) dl (assignCanonicalCodes dl) toks ++ rest) d)
    (hd : InSymbols ll dl final d) :
    ∃ d', LeadsTo d d' ∧ DecoderAt d0 (x ++ y)
      (pos + (tokensBits ll (assignCanonicalCodes ll) dl (assignCanonicalCodes dl) toks).length) rest d' ∧
      d'.dstate = if final then .done else .hdr := by
  induction hx generalizing pos d with
  | nil x =>
    refine ⟨_, leadsTo_endOfBlock hll heob h hd, ?_, ?_⟩
    · rw [List.append_nil]
      exact h.skip
    · obtain ⟨-, -, -, rfl⟩ := hd
      rfl
  | @cons x y z t toks ht hrest ih =>
    obtain ⟨hcode, hcodes⟩ := List.forall_mem_cons.mp hcode
    rw [← List.append_assoc] at hcap ⊢
    have hcapt : (x ++ y).length ≤ d0.outLimit.toNat := by
      rw [List.length_append] at hcap
      omega
    rw [tokensBits_cons, List.append_assoc] at h
    have hstep := leadsTo_token hw hll hdl hcode ht hcapt h hd
    obtain ⟨d', hlead, hat, hend⟩ := ih hcodes hcap (h.consume y) (hd.of_append _ y)
    refine ⟨d', hstep.trans hlead, ?_, hend⟩
    rw [tokensBits_cons, List.length_append, ← Nat.add_assoc]
    exact hat

end

end Sys2Proof.Machine

/-! PROOFS. The decoder on stored and on fixed blocks (spec 44_block_encoder R202, R208, R212, 45_inflate R231 to R235,
R261): it appends the bytes that the block stands for. -/

namespace Sys2Proof.Machine

/-! ## A block and the decoder -/

/-- At stream position `pos` and behind the bytes `x`, the bits are one or more blocks, the last of them final or not,
that the decoder decodes to the bytes `y` (R230, R235). -/
def Decodes (w pos : Nat) (x : List Byte) (bits : List Bool) (final : Bool) (y : List Byte) : Prop :=
  ∀ (d0 : State) (rest : List Bool) (d : State), wsize d0.params = w → (x ++ y).length ≤ d0.outLimit.toNat →
    DecoderAt d0 x pos (bits ++ rest) d → d.dstate = .hdr →
    ∃ d', LeadsTo d d' ∧ DecoderAt d0 (x ++ y) (pos + bits.length) rest d' ∧
      d'.dstate = if final then .done else .hdr

theorem decodes_nil (w pos : Nat) (x : List Byte) : Decodes w pos x [] false [] := by
  intro d0 rest d _ _ hat hd
  rw [List.append_nil]
  exact ⟨d, .refl d, hat, hd⟩

/-- Blocks one after the other (R235). -/
theorem Decodes.append {w pos : Nat} {x y z : List Byte} {bits later : List Bool} {final : Bool}
    (h : Decodes w pos x bits false y) (k : Decodes w (pos + bits.length) (x ++ y) later final z) :
    Decodes w pos x (bits ++ later) final (y ++ z) := by
  intro d0 rest d hw hcap hat hd
  rw [← List.append_assoc] at hcap ⊢
  have hcapy : (x ++ y).length ≤ d0.outLimit.toNat := by
    rw [List.length_append] at hcap
    omega
  rw [List.append_assoc] at hat
  obtain ⟨d₁, hlead₁, hat₁, hd₁⟩ := h d0 (later ++ rest) d hw hcapy hat hd
  obtain ⟨d₂, hlead₂, hat₂, hd₂⟩ := k d0 rest d₁ hw hcap hat₁ hd₁
  rw [List.length_append, ← Nat.add_assoc]
  exact ⟨d₂, hlead₁.trans hlead₂, hat₂, hd₂⟩

section
variable {d0 d : State} {x : List Byte} {pos : Nat} {rest : List Bool}

/-- The decoder's control registers do not tell what it has produced and what is before it. -/
theorem DecoderAt.control {bits : List Bool} (h : DecoderAt d0 x pos bits d) {dstate : DState} {bfinal : Bool}
    {rem : BitVec 16} {nlen : BitVec 9} {ndist : BitVec 6} {ncode idx : BitVec 5} {cll : Vector (BitVec 3) 19}
    {lens : List (BitVec 4)} {clt lt dt : DecodeTable} :
    DecoderAt d0 x pos bits { d with
      dstate := dstate, bfinal := bfinal, rem := rem, nlen := nlen, ndist := ndist, ncode := ncode, idx := idx
      cll := cll, lens := lens, clt := clt, lt := lt, dt := dt } := h

/-- The state with the bits taken from its input (R230). -/
theorem DecoderAt.moved {bits : List Bool} {p : Nat} (h : DecoderAt d0 x pos (bits ++ rest) d)
    (hp : p = d.bitposIn + bits.length) :
    DecoderAt d0 x (pos + bits.length) rest { d with inq := rest, bitposIn := p } := by
  obtain ⟨hopen, ⟨-, hpos⟩, hrest⟩ := h
  exact ⟨hopen, ⟨rfl, by rw [hp, hpos]⟩, hrest⟩

/-! ## Headers -/

/-- The decoder on the header of a block (R231). -/
theorem leadsTo_header {final : Bool} {type : Nat} {i : Instr} {u : State}
    (hdecode : decode ⟨.blockHdr, ofBitsLSB [final, type.testBit 0, type.testBit 1], 0, []⟩ = .ok i)
    (he : exec i (advance (headerBits final type).length d) = .next u) (hu : u.AtBoundary)
    (h : DecoderAt d0 x pos (headerBits final type ++ rest) d) (hd : d.dstate = .hdr) : LeadsTo d u := by
  have hbits := h.unread
  rw [headerBits_eq] at hbits
  have hf : fetchElement d = some (.element i (advance (headerBits final type).length d)) := by
    simp only [fetchElement, hd, fetchHeader_threeBits hdecode hbits, length_headerBits]
  exact leadsTo_of_element (h.decoding (by rw [hd]; decide)) hf he (distanceHolds_of_boundary hu)

/-! ## Stored blocks -/

/-- The decoder on the raw bytes of a stored block (R234, R235). -/
theorem leadsTo_storedBytes {y : List Byte} {final : Bool} (hy : y ≠ []) (hlen : y.length < 2 ^ 16)
    (h : DecoderAt d0 x pos (bytesBits y ++ rest) d) (hd : d.dstate = .storedCopy) (hrem : d.rem = .ofNat 16 y.length)
    (hfinal : d.bfinal = final) :
    ∃ d', LeadsTo d d' ∧ DecoderAt d0 (x ++ y) (pos + (bytesBits y).length) rest d' ∧
      d'.dstate = if final then .done else .hdr := by
  induction y generalizing x pos d with
  | nil => exact absurd rfl hy
  | cons b y ih =>
    have hb := h.atBoundary
    have hbits : d.inq = byteBits b ++ (bytesBits y ++ rest) := by
      rw [← unread_of_boundary hb, h.unread, ← List.append_assoc]
      rfl
    have hat : DecoderAt d0 (x ++ [b]) (pos + 8) (bytesBits y ++ rest) (storedByteTaken b (advance 8 d)) := by
      have hcons : bytesBits (b :: y) = byteBits b ++ bytesBits y := rfl
      rw [hcons, List.append_assoc] at h
      have hconsumed := h.consume [b]
      rw [length_byteBits] at hconsumed
      exact hconsumed.control
    have hstep (t : State) (ht : storedCopyStep d = some t) : LeadsTo d t :=
      leadsTo_of_plain (h.decoding (by rw [hd]; decide)) (fetchElement_storedCopy hd)
        ((plainStep_storedCopy hd).trans ht)
    have htaken := storedCopyStep_of_byte hb hbits
    have hone : d.rem = 1 ↔ y.length = 0 := by
      have hvalue : d.rem.toNat = y.length + 1 := by rw [hrem, BitVec.toNat_ofNat, Nat.mod_eq_of_lt hlen]; rfl
      rw [← BitVec.toNat_inj, hvalue]
      exact Nat.succ_inj
    by_cases hnil : y = []
    · subst hnil
      rw [if_pos (hone.mpr rfl)] at htaken
      refine ⟨_, hstep _ htaken, hat.control, ?_⟩
      show (if (storedByteTaken b (advance 8 d)).bfinal then DState.done else DState.hdr) = _
      rw [storedByteTaken, windowAppend_frame]
      show (if d.bfinal then DState.done else DState.hdr) = _
      rw [hfinal]
    · have hmore : ¬ d.rem = 1 := fun h1 => hnil (List.length_eq_zero_iff.mp (hone.mp h1))
      rw [if_neg hmore] at htaken
      have hrem' : (storedByteTaken b (advance 8 d)).rem = .ofNat 16 y.length := by
        show d.rem - 1 = _
        rw [hrem, List.length_cons]
        apply BitVec.eq_of_toNat_eq
        simp only [List.length_cons] at hlen
        rw [BitVec.toNat_sub, BitVec.toNat_ofNat, BitVec.toNat_ofNat]
        have : (1 : BitVec 16).toNat = 1 := rfl
        omega
      have hdstate : (storedByteTaken b (advance 8 d)).dstate = .storedCopy ∧
          (storedByteTaken b (advance 8 d)).bfinal = final := by
        rw [storedByteTaken, windowAppend_frame]
        exact ⟨hd, hfinal⟩
      obtain ⟨d', hlead, hat', hend⟩ := ih hnil (by rw [List.length_cons] at hlen; omega) hat hdstate.1 hrem' hdstate.2
      refine ⟨d', (hstep _ htaken).trans hlead, ?_, hend⟩
      rw [List.append_assoc] at hat'
      have hlength : pos + 8 + (bytesBits y).length = pos + (bytesBits (b :: y)).length := by
        rw [length_bytesBits, length_bytesBits, List.length_cons]
        omega
      rw [hlength] at hat'
      exact hat'

/-- The decoder on the lengths of a stored block (R233). -/
theorem leadsTo_storedLen {y : List Byte} {final : Bool} (hlen : y.length < 2 ^ 16)
    (hcap : (x ++ y).length ≤ d0.outLimit.toNat)
    (h : DecoderAt d0 x (pos + 3) (storedBits pos y ++ rest) d) (hd : d.dstate = .storedLen)
    (hfinal : d.bfinal = final) :
    ∃ d', LeadsTo d d' ∧ DecoderAt d0 x (pos + 3 + storedPad pos + 32) (bytesBits y ++ rest) d' ∧
      d'.dstate = (if y.length ≠ 0 then .storedCopy else if final then .done else .hdr) ∧
      d'.rem = .ofNat 16 y.length ∧ d'.bfinal = final := by
  have hbits : storedBits pos y ++ rest = (bitsLSB 0 (storedPad pos) ++ bitsLSB y.length 16 ++
      bitsLSB (0xFFFF - y.length) 16) ++ (bytesBits y ++ rest) := by
    simp only [storedBits, storedLenBits, List.append_assoc]
  have hread : (bitsLSB 0 (storedPad pos) ++ bitsLSB y.length 16 ++ bitsLSB (0xFFFF - y.length) 16).length =
      storedPad pos + 32 := by
    simp only [List.length_append, length_bitsLSB]
  have hb := h.atBoundary
  have hroom := h.fits hcap
  have hdec := h.decoding (by rw [hd]; decide)
  rw [hbits] at h
  have hunread := h.unread
  rw [unread_of_boundary hb] at hunread
  have hpad : (bitsLSB 0 (storedPad pos)).length = alignInPad d := by
    obtain ⟨-, ⟨-, hpos⟩, -⟩ := h
    rw [length_bitsLSB, alignInPad, hpos, storedPad]
  have hstep := storedLenStep_of_accepted hb hpad hlen hunread hroom
  have hmoved := h.moved (p := d.bitposIn + (bitsLSB 0 (storedPad pos)).length + 32)
    (by rw [hread, length_bitsLSB, Nat.add_assoc])
  rw [hread, ← Nat.add_assoc] at hmoved
  refine ⟨_, leadsTo_of_plain hdec (fetchElement_storedLen hd) ((plainStep_storedLen hd).trans hstep),
    hmoved.control, ?_, rfl, hfinal⟩
  rw [← hfinal]

/-- The decoder on a stored block (R208, R233). -/
theorem decodes_stored {w : Nat} {y : List Byte} (final : Bool) (hlen : y.length < 2 ^ 16) :
    Decodes w pos x (headerBits final 0 ++ storedBits pos y) final y := by
  intro d0 rest d hw hcap h hd
  rw [List.append_assoc] at h
  have hhdr : LeadsTo d (enterBlock final .storedLen (advance (headerBits final 0).length d)) :=
    leadsTo_header (i := .blockStored final) (by cases final <;> decide) rfl
      (commit_atBoundary (advance (headerBits final 0).length d)) h hd
  have hlength : (headerBits final 0 ++ storedBits pos y).length = 3 + storedPad pos + 32 + (bytesBits y).length := by
    simp only [storedBits, storedLenBits, List.length_append, length_headerBits, length_bitsLSB]
    omega
  have hentered : DecoderAt d0 x (pos + 3) (storedBits pos y ++ rest)
      (enterBlock final .storedLen (advance (headerBits final 0).length d)) := h.skip.control
  obtain ⟨d₁, hlead₁, hat₁, hd₁, hrem₁, hfinal₁⟩ := leadsTo_storedLen (final := final) hlen hcap hentered rfl rfl
  rw [hlength, ← Nat.add_assoc, ← Nat.add_assoc, ← Nat.add_assoc]
  by_cases hy : y = []
  · subst hy
    rw [List.append_nil]
    exact ⟨d₁, hhdr.trans hlead₁, hat₁, hd₁⟩
  · rw [if_pos (mt List.length_eq_zero_iff.mp hy)] at hd₁
    obtain ⟨d₂, hlead₂, hat₂, hd₂⟩ := leadsTo_storedBytes hy hlen hat₁ hd₁ hrem₁ hfinal₁
    exact ⟨d₂, hhdr.trans (hlead₁.trans hlead₂), hat₂, hd₂⟩

/-! ## Fixed blocks -/

theorem decodable_fixedLitLens : Decodable fixedLitLens := by
  refine ⟨fun l hl => ?_, ?_⟩
  · simp only [fixedLitLens, List.mem_append, List.mem_replicate] at hl
    omega
  · rw [overSubscribed, lenCounts_fixedLitLens]
    decide

theorem decodable_fixedDistLens : Decodable fixedDistLens := by
  refine ⟨by decide, ?_⟩
  rw [overSubscribed, lenCounts_fixedDistLens]
  decide

/-- Every symbol of a token has a fixed code (R94, R95). -/
theorem fixed_tokenHasCode (t : Token) : TokenHasCode fixedLitLens fixedDistLens t := by
  refine ⟨fixedLitLens_getD_ne_zero ((litLenSymbol_lt t).trans (by decide)), fun j hj => ?_⟩
  have hlt : j < 32 := (distSymbol_lt hj).trans (by decide)
  rw [(fixedDist_code hlt).1]
  decide

/-- The decoder on a fixed block (R212, R261). -/
theorem decodes_fixed {w : Nat} {y : List Byte} {toks : List Token} (final : Bool) (hwmax : w ≤ 32768)
    (hx : Expands w x toks y) : Decodes w pos x (headerBits final 1 ++ fixedBits toks) final y := by
  intro d0 rest d hw hcap h hd
  subst hw
  rw [List.append_assoc] at h
  have hhdr := leadsTo_header (i := .blockFixed final) (by cases final <;> decide) rfl
    (commit_atBoundary (advance (headerBits final 1).length d)) h hd
  have hentered : DecoderAt d0 x (pos + (headerBits final 1).length) (fixedBits toks ++ rest)
      { enterBlock final .sym (advance (headerBits final 1).length d) with lt := fixedLT, dt := fixedDT } :=
    h.skip.control
  obtain ⟨d', hlead, hat, hend⟩ := leadsTo_tokens (final := final) hwmax decodable_fixedLitLens
    decodable_fixedDistLens (fun t _ => fixed_tokenHasCode t) (fixedLitLens_getD_ne_zero (by decide)) hx hcap hentered
    ⟨rfl, rfl, rfl, rfl⟩
  rw [List.length_append, ← Nat.add_assoc]
  exact ⟨d', hhdr.trans hlead, hat, hend⟩

end

end Sys2Proof.Machine

/-! PROOFS. The decoder on dynamic blocks (spec 43_huffman R171, R186, 44_block_encoder R206 to R213, 45_inflate R240 to
R252): it builds the tables of the lengths that the encoder has built its codes from. -/

namespace Sys2Proof.Machine

/-! ## Lengths the encoder has built -/

/-- A decode table can be built for what `buildLengths` makes (R171, R176, R186). -/
theorem decodable_buildLengths {n M : Nat} (hM : M = 15 ∨ M = 7) (hn : n ≤ 2 ^ M) (symbols : List Nat) :
    Decodable (buildLengths (frequencies n symbols) M) := by
  have hused : (frequencies n symbols).countP (· != 0) ≤ 2 ^ M :=
    List.countP_le_length.trans ((length_frequencies n symbols).trans_le hn)
  obtain ⟨-, hle, -⟩ := buildLengths_frequencies hM hn symbols
  obtain ⟨-, -, hsum⟩ := builtLengthsMeetKraft _ M hM hused
  generalize buildLengths (frequencies n symbols) M = lens at hle hsum
  have hM15 : M ≤ 15 := by omega
  have hlens : ∀ l ∈ lens, l ≤ 15 := fun l hl => (hle l hl).trans hM15
  have hbound : ((lens.filter (· ≠ 0)).map fun l => 2 ^ (M - l)).sum ≤ 2 ^ M := by
    have hhalf : 2 ^ (M - 1) ≤ 2 ^ M := Nat.pow_le_pow_right (by decide) (Nat.sub_le _ _)
    rw [hsum]
    split_ifs
    · exact Nat.zero_le _
    · exact hhalf
    · exact Nat.le_refl _
  have hscale : ((lens.filter (· ≠ 0)).map fun l => 2 ^ (15 - l)).sum =
      2 ^ (15 - M) * ((lens.filter (· ≠ 0)).map fun l => 2 ^ (M - l)).sum := by
    rw [← List.sum_map_mul_left]
    refine congrArg List.sum (List.map_congr_left fun l hl => ?_)
    have hlM := hle l (List.mem_of_mem_filter hl)
    rw [← Nat.pow_add]
    congr 1
    omega
  refine ⟨hlens, ?_⟩
  rw [overSubscribed, kraft_lenCounts hlens, hscale]
  have htotal : 2 ^ (15 - M) * 2 ^ M = 2 ^ 15 := by
    rw [← Nat.pow_add, Nat.sub_add_cancel hM15]
  have := Nat.mul_le_mul_left (2 ^ (15 - M)) hbound
  exact decide_eq_false (by omega)

/-- Beyond the number of lengths that are sent there are no codes (R206, R209). -/
theorem getD_eq_zero_of_usedCount_le {lens : List Nat} {k : Nat} (h : usedCount lens ≤ k) : lens.getD k 0 = 0 := by
  by_contra hne
  have := le_maxUsedLen 1 hne
  rw [usedCount] at h
  omega

/-- The lengths that are sent, filled up with zeros, are all lengths (R206, R250). -/
theorem rightpad_take_of_usedCount_le {lens : List Nat} {n m : Nat} (hlen : lens.length = m) (h : usedCount lens ≤ n)
    (hn : n ≤ m) : (lens.take n).rightpad m 0 = lens := by
  refine List.ext_getElem (by simp; omega) fun k hk hk' => ?_
  simp only [List.rightpad, List.getElem_append, List.length_take, hlen, Nat.min_eq_left hn, List.getElem_take,
    List.getElem_replicate]
  split
  · rfl
  · have hzero := getD_eq_zero_of_usedCount_le (k := k) (lens := lens) (by omega)
    rw [List.getD_eq_getElem _ _ hk'] at hzero
    exact hzero.symm

/-! ## The code-length code -/

/-- The lengths of the code-length code after the first `k` of them have gone to their places (R87, R242). -/
def placedLengths (cl : List Nat) (k : Nat) : List Nat :=
  (List.range 19).map fun y => if y ∈ clOrder.take k then cl.getD y 0 else 0

theorem placedLengths_succ {cl : List Nat} {k : Nat} (hk : k < 19) :
    placedLengths cl (k + 1) = (placedLengths cl k).set (clOrder.getD k 0) (cl.getD (clOrder.getD k 0) 0) := by
  have hlt : k < clOrder.length := hk
  have htake : clOrder.take (k + 1) = clOrder.take k ++ [clOrder.getD k 0] := by
    rw [List.take_succ_eq_append_getElem hlt, List.getD_eq_getElem _ _ hlt]
  refine List.ext_getElem (by simp [placedLengths]) fun y hy hy' => ?_
  simp only [placedLengths, List.getElem_map, List.getElem_range, List.getElem_set, htake, List.mem_append,
    List.mem_singleton]
  by_cases heq : clOrder.getD k 0 = y
  · rw [if_pos (.inr heq.symm), if_pos heq, heq]
  · rw [if_neg heq]
    exact if_congr (or_iff_left fun h => heq h.symm) rfl rfl

/-- The lengths that are sent are all that are not 0 (R209). -/
theorem placedLengths_all {cl : List Nat} {n : Nat} (hlen : cl.length = 19)
    (hn : usedCount (clOrder.map fun y => cl.getD y 0) ≤ n) : placedLengths cl n = cl := by
  refine List.ext_getElem (by simp [placedLengths, hlen]) fun y hy hy' => ?_
  simp only [placedLengths, List.getElem_map, List.getElem_range]
  rw [hlen] at hy'
  split
  · exact List.getD_eq_getElem _ _ _
  · next hout =>
    obtain ⟨j, hj, hplace⟩ : ∃ j < 19, clOrder[j]? = some y :=
      (by decide : ∀ z < 19, ∃ j < 19, clOrder[j]? = some z) y hy'
    have hlate : n ≤ j := by
      by_contra hlt
      refine hout (List.mem_of_getElem? (i := j) ?_)
      rw [List.getElem?_take_of_lt (by omega), hplace]
    have hzero := getD_eq_zero_of_usedCount_le (hn.trans hlate)
    rw [List.getD_eq_getElem?_getD, List.getElem?_map, hplace, Option.map_some, Option.getD_some] at hzero
    rw [← hzero]
    exact List.getD_eq_getElem _ _ _

/-- The decoder has read the first `k` lengths of the code-length code (R242). -/
def ReadingCl (cl : List Nat) (nlen ndist ncode : Nat) (final : Bool) (k : Nat) (d : State) : Prop :=
  d.dstate = .dynCl ∧ (d.nlen.toNat = nlen ∧ d.ndist.toNat = ndist ∧ d.ncode.toNat = ncode ∧ d.bfinal = final) ∧
    d.idx.toNat = k ∧ d.cll.toList.map BitVec.toNat = placedLengths cl k

/-- The decoder has read the code lengths `known` (R246). -/
def ReadingItems (cl : List Nat) (nlen ndist : Nat) (final : Bool) (known : List Nat) (d : State) : Prop :=
  d.dstate = .dynLens ∧ (d.nlen.toNat = nlen ∧ d.ndist.toNat = ndist ∧ d.bfinal = final) ∧ d.clt = rawTable cl ∧
    d.lens.map BitVec.toNat = known

section
variable {d0 d : State} {x : List Byte} {pos nlen ndist ncode k : Nat} {rest : List Bool} {cl : List Nat} {final : Bool}

/-- The next length of the code-length code goes to its place (R242). -/
theorem placedLength_eq (hcl : ∀ l ∈ cl, l ≤ 7) (hk : k < 19) (h : ReadingCl cl nlen ndist ncode final k d) :
    (placedLength (cl.getD (clOrder.getD k 0) 0) d).toList.map BitVec.toNat = placedLengths cl (k + 1) := by
  obtain ⟨-, -, hidx, hcll⟩ := h
  have hle : cl.getD (clOrder.getD k 0) 0 ≤ 7 := getD_le_of_forall_le hcl _
  rw [placedLengths_succ hk, ← hcll, placedLength, hidx, Vector.toList_setIfInBounds, List.map_set,
    toNat_ofNat_of_fits (n := 3) (by omega) (Nat.le_refl _)]

/-- The bits of the lengths of the code-length code, from the `k`-th on (R213). -/
def clFieldsFrom (cl : List Nat) (ncode k : Nat) : List Bool :=
  ((clOrder.take ncode).drop k).flatMap fun y => bitsLSB (cl.getD y 0) 3

theorem clFieldsFrom_eq {cl : List Nat} {ncode k : Nat} (hk : k < ncode) (hn : ncode ≤ 19) :
    clFieldsFrom cl ncode k = bitsLSB (cl.getD (clOrder.getD k 0) 0) 3 ++ clFieldsFrom cl ncode (k + 1) := by
  have hlt : k < (clOrder.take ncode).length := by
    rw [List.length_take]
    exact Nat.lt_min.mpr ⟨hk, hk.trans_le hn⟩
  rw [clFieldsFrom, List.drop_eq_getElem_cons hlt, List.flatMap_cons, List.getElem_take,
    List.getD_eq_getElem _ _ (show k < clOrder.length from hk.trans_le hn)]
  rfl

/-- The decoder on the lengths of the code-length code (R242, R244): it builds the table of these lengths. -/
theorem leadsTo_clFields (hlen : cl.length = 19) (hcl : ∀ l ∈ cl, l ≤ 7) (hcode : Decodable cl)
    (hused : usedCount (clOrder.map fun y => cl.getD y 0) ≤ ncode) (hn : ncode ≤ 19) (hk : k < ncode)
    (h : DecoderAt d0 x pos (clFieldsFrom cl ncode k ++ rest) d)
    (hd : ReadingCl cl nlen ndist ncode final k d) :
    ∃ d', LeadsTo d d' ∧ DecoderAt d0 x (pos + (clFieldsFrom cl ncode k).length) rest d' ∧
      ReadingItems cl nlen ndist final [] d' := by
  induction hm : ncode - k generalizing k pos d with
  | zero => omega
  | succ m ih =>
    have hplaced := placedLength_eq hcl (hk.trans_le hn) hd
    obtain ⟨hds, ⟨hnlen, hndist, hncode, hfinal⟩, hidx, -⟩ := hd
    have hfield : cl.getD (clOrder.getD k 0) 0 < 2 ^ 3 := Nat.lt_succ_of_le (getD_le_of_forall_le hcl _)
    rw [clFieldsFrom_eq hk hn, List.append_assoc] at h
    rw [clFieldsFrom_eq hk hn, List.length_append, length_bitsLSB, ← Nat.add_assoc]
    have hb := h.atBoundary
    have hbits := h.unread
    rw [unread_of_boundary hb] at hbits
    obtain ⟨hmore, -, hlast⟩ := dynClStep_of_field hb (by omega) hfield hbits
    have hstep (t : State) (ht : dynClStep d = some t) : LeadsTo d t :=
      leadsTo_of_plain (h.decoding (by rw [hds]; decide)) (fetchElement_dynCl hds) ((plainStep_dynCl hds).trans ht)
    have hat : DecoderAt d0 x (pos + 3) (clFieldsFrom cl ncode (k + 1) ++ rest)
        (lengthPlaced (cl.getD (clOrder.getD k 0) 0) d) := by
      have hskip := h.skip
      rw [length_bitsLSB, commit_advance_of_boundary 3 hb] at hskip
      exact hskip.control
    rcases Nat.lt_or_eq_of_le (Nat.succ_le_of_lt hk) with hlt | heq
    · have hidx' : (lengthPlaced (cl.getD (clOrder.getD k 0) 0) d).idx.toNat = k + 1 := by
        show (d.idx.toNat + 1) % 2 ^ 5 = k + 1
        omega
      obtain ⟨d', hlead, hat', hend⟩ := ih hlt hat ⟨hds, ⟨hnlen, hndist, hncode, hfinal⟩, hidx', hplaced⟩ (by omega)
      exact ⟨d', (hstep _ (hmore (by omega))).trans hlead, hat', hend⟩
    · have htable : buildDecodeTable ((placedLength (cl.getD (clOrder.getD k 0) 0) d).toList.map BitVec.toNat) =
          some (rawTable cl) := by
        rw [hplaced, placedLengths_all hlen (hused.trans_eq heq.symm)]
        exact buildDecodeTable_eq_some_iff.mpr ⟨hcode.2, rfl⟩
      have hnil : clFieldsFrom cl ncode (k + 1) = [] := by
        rw [clFieldsFrom, List.drop_eq_nil_of_le (by rw [List.length_take]; omega)]
        rfl
      rw [hnil] at hat ⊢
      exact ⟨_, hstep _ (hlast _ (by omega) htable), hat.control, rfl, ⟨hnlen, hndist, hfinal⟩, rfl, rfl⟩

/-! ## The items -/

/-- The bits of a code-length item (R213). -/
def itemBits (cl : List Nat) (e : Nat × Nat) : List Bool :=
  codeBits cl (assignCanonicalCodes cl) e.1 ++ bitsLSB e.2 (clExtra e.1)

/-- A code-length item is an instruction that appends its run to the lengths (R88, R246). -/
theorem exec_item {e : Nat × Nat} {lens : List (BitVec 4)} (hfits : ItemFits e) (hprev : e.1 = 16 → lens ≠ []) :
    ∃ i v n, decode ⟨.clSym, e.1, e.2, []⟩ = .ok i ∧ 1 ≤ n ∧
      (∀ s : State, s.lens = lens → exec i s = .next (appendLengths v n s)) ∧
      expandItems [e] (lens.map BitVec.toNat) = (lens ++ List.replicate n v).map BitVec.toNat := by
  obtain ⟨y, z⟩ := e
  obtain ⟨hy, hz⟩ := hfits
  change y ≤ 18 at hy
  change z < 2 ^ clExtra y at hz
  show ∃ i v n, decodeCl y z = .ok i ∧ _
  have hexpand (known : List Nat) : expandItems [(y, z)] known = known ++
      (if y ≤ 15 then [y] else if y = 16 then List.replicate (3 + z) (known.getLast?.getD 0)
        else if y = 17 then List.replicate (3 + z) 0 else List.replicate (11 + z) 0) := rfl
  have hrun (n : Nat) (v : BitVec 4) : (lens ++ List.replicate n v).map BitVec.toNat =
      lens.map BitVec.toNat ++ List.replicate n v.toNat := by rw [List.map_append, List.map_replicate]
  simp only [hexpand, hrun, decodeCl]
  by_cases h15 : y ≤ 15
  · have hv : (BitVec.ofNat 4 y).toNat = y := toNat_ofNat_of_fits (n := 4) (by omega) (Nat.le_refl _)
    refine ⟨.cl (.ofNat 4 y), .ofNat 4 y, 1, if_pos h15, Nat.le_refl _, fun s _ => rfl, ?_⟩
    rw [if_pos h15, hv]
    rfl
  rw [if_neg h15, if_neg h15, if_pos hy, if_pos hz]
  by_cases h16 : y = 16
  · subst h16
    have hx : (BitVec.ofNat 2 z).toNat = z := toNat_ofNat_of_fits (n := 2) hz (Nat.le_refl _)
    obtain ⟨v, hv⟩ : ∃ v, lens.getLast? = some v := by
      rw [← Option.ne_none_iff_exists']
      exact mt List.getLast?_eq_none_iff.mp (hprev rfl)
    refine ⟨.rep16 (.ofNat 2 z), v, 3 + z, rfl, by omega, fun s hs => ?_, ?_⟩
    · rw [exec_rep16_of_last (hs ▸ hv), hx]
    · rw [if_pos rfl, List.getLast?_map, hv]
      rfl
  rw [if_neg h16, if_neg h16]
  by_cases h17 : y = 17
  · subst h17
    have hx : (BitVec.ofNat 3 z).toNat = z := toNat_ofNat_of_fits (n := 3) hz (Nat.le_refl _)
    refine ⟨.repz17 (.ofNat 3 z), 0, 3 + z, rfl, by omega, fun s _ => ?_, rfl⟩
    show execRepz17 (.ofNat 3 z) s = _
    rw [execRepz17, hx]
    rfl
  · obtain rfl : y = 18 := by omega
    have hx : (BitVec.ofNat 7 z).toNat = z := toNat_ofNat_of_fits (n := 7) hz (Nat.le_refl _)
    refine ⟨.repz18 (.ofNat 7 z), 0, 11 + z, rfl, by omega, fun s _ => ?_, rfl⟩
    show execRepz18 (.ofNat 7 z) s = _
    rw [execRepz18, hx]
    rfl

/-- The decoder on a code-length item (R246). -/
theorem leadsTo_item {e : Nat × Nat} {known : List Nat} (hcode : Decodable cl) (hfits : ItemFits e)
    (hy : cl.getD e.1 0 ≠ 0) (hprev : e.1 = 16 → known ≠ [])
    (h : DecoderAt d0 x pos (itemBits cl e ++ rest) d) (hd : ReadingItems cl nlen ndist final known d) :
    ∃ v n, 1 ≤ n ∧ expandItems [e] known = (d.lens ++ List.replicate n v).map BitVec.toNat ∧
      LeadsTo d (appendLengths v n (advance (itemBits cl e).length d)) := by
  obtain ⟨hds, -, hclt, rfl⟩ := hd
  have hprev' : e.1 = 16 → d.lens ≠ [] := fun h16 hnil => hprev h16 (by rw [hnil]; rfl)
  obtain ⟨i, v, n, hdecode, hn, hexec, hexpand⟩ := exec_item hfits hprev'
  obtain ⟨hlens, hover⟩ := hcode
  have hf : fetchElement d = some (.element i (advance (itemBits cl e).length d)) := by
    simp only [fetchElement, hds, hclt]
    exact congrArg some (fetchSymbol_symbolBits hlens hover hy hfits.2 (extraAsked_eq fun _ => hprev') hdecode h.unread)
  have he := hexec (advance (itemBits cl e).length d) rfl
  have hformat : (encode i).format = .clSym := decode_format hdecode
  have hb := (exec_element_ends (by rw [hformat]; decide) he).resolve_right fun ⟨hl, _⟩ => by
    rw [hformat] at hl
    cases hl
  exact ⟨v, n, hn, hexpand,
    leadsTo_of_element (h.decoding (by rw [hds]; decide)) hf he (distanceHolds_of_boundary hb)⟩

theorem expandItems_length_le (items : List (Nat × Nat)) (known : List Nat) :
    known.length ≤ (expandItems items known).length := by
  induction items generalizing known with
  | nil => exact Nat.le_refl _
  | cons e items ih =>
    refine Nat.le_trans ?_ (ih _)
    rw [List.length_append]
    exact Nat.le_add_right _ _

/-- Every item stands for one length at least (R88). -/
theorem expandItems_length_lt {items : List (Nat × Nat)} (h : items ≠ []) (known : List Nat) :
    known.length < (expandItems items known).length := by
  cases items with
  | nil => exact absurd rfl h
  | cons e items =>
    refine Nat.lt_of_lt_of_le ?_ (expandItems_length_le items _)
    rw [List.length_append]
    split_ifs <;> simp

/-- The decoder on the code-length items of a header (R246, R250): it builds the tables of the lengths that the items
stand for. -/
theorem leadsTo_items {items : List (Nat × Nat)} {known all ll dl : List Nat} (hcode : Decodable cl)
    (hitems : items ≠ []) (hfits : ∀ e ∈ items, ItemFits e ∧ cl.getD e.1 0 ≠ 0)
    (hhead : ∀ e, items.head? = some e → e.1 = 16 → known ≠ []) (hexpand : expandItems items known = all)
    (htotal : all.length = nlen + ndist) (hll : (all.take nlen).rightpad 286 0 = ll)
    (hdl : ((all.drop nlen).take ndist).rightpad 30 0 = dl) (hllcode : Decodable ll) (hdlcode : Decodable dl)
    (heob : ll.getD 256 0 ≠ 0) (h : DecoderAt d0 x pos (items.flatMap (itemBits cl) ++ rest) d)
    (hd : ReadingItems cl nlen ndist final known d) :
    ∃ d', LeadsTo d d' ∧ DecoderAt d0 x (pos + (items.flatMap (itemBits cl)).length) rest d' ∧
      InSymbols ll dl final d' := by
  induction items generalizing known pos d with
  | nil => exact absurd rfl hitems
  | cons e items ih =>
    obtain ⟨⟨hefits, hecode⟩, hrest⟩ := List.forall_mem_cons.mp hfits
    rw [List.flatMap_cons, List.append_assoc] at h
    rw [List.flatMap_cons, List.length_append, ← Nat.add_assoc]
    obtain ⟨v, n, hn, hone, hlead⟩ := leadsTo_item hcode hefits hecode (hhead e rfl) h hd
    obtain ⟨hds, ⟨hnlen, hndist, hfinal⟩, hclt, rfl⟩ := hd
    have hall : expandItems items ((d.lens ++ List.replicate n v).map BitVec.toNat) = all := by
      rw [← hone, ← hexpand]
      rfl
    have hlength : ((d.lens ++ List.replicate n v).map BitVec.toNat).length = d.lens.length + n := by
      rw [List.length_map, List.length_append, List.length_replicate]
    have hskip := h.skip
    by_cases hnil : items = []
    · subst hnil
      have hall' : (d.lens ++ List.replicate n v).map BitVec.toNat = all := hall
      have hlast : d.lens.length + n = d.nlen.toNat + d.ndist.toNat := by
        rw [hnlen, hndist, ← htotal, ← hall', hlength]
      rw [appendLengths_of_last (s := advance (itemBits cl e).length d) hlast] at hlead
      have hlit : headerLitLens d.nlen.toNat (d.lens ++ List.replicate n v) = ll := by
        rw [headerLitLens, List.map_take, hall', hnlen]
        exact hll
      have hdist : headerDistLens d.nlen.toNat d.ndist.toNat (d.lens ++ List.replicate n v) = dl := by
        rw [headerDistLens, List.map_take, List.map_drop, hall', hnlen, hndist]
        exact hdl
      obtain ⟨-, -, hbuilt⟩ := finishHeader_cases (s := advance (itemBits cl e).length d)
        (t := { commit (advance (itemBits cl e).length d) with lens := d.lens ++ List.replicate n v }) hlit hdist
      have hfinish := hbuilt _ _ heob (buildDecodeTable_eq_some_iff.mpr ⟨hllcode.2, rfl⟩)
        (buildDecodeTable_eq_some_iff.mpr ⟨hdlcode.2, rfl⟩)
      exact ⟨_, (congrArg (LeadsTo d) hfinish).mp hlead, hskip.control, rfl, rfl, rfl, hfinal⟩
    · have hmore : d.lens.length + n < d.nlen.toNat + d.ndist.toNat := by
        have hlt := expandItems_length_lt hnil ((d.lens ++ List.replicate n v).map BitVec.toNat)
        rw [hall, htotal, hlength] at hlt
        omega
      rw [appendLengths_of_more (s := advance (itemBits cl e).length d) hmore] at hlead
      have hknown : (d.lens ++ List.replicate n v).map BitVec.toNat ≠ [] :=
        List.ne_nil_of_length_pos (by omega)
      obtain ⟨d', hlead', hat, hend⟩ := ih hnil hrest (fun _ _ _ => hknown) hall hskip.control
        ⟨hds, ⟨hnlen, hndist, hfinal⟩, hclt, rfl⟩
      exact ⟨d', hlead.trans hlead', hat, hend⟩

end

/-! ## The dynamic block -/

/-- The first item of a run is no repeat (R207). -/
theorem rleRun_eq_cons {v : Nat} (hv : v ≤ 15) (n : Nat) :
    ∃ e items, rleRun v (n + 1) = e :: items ∧ e.1 ≠ 16 := by
  rw [rleRun]
  split_ifs with hzero
  · rw [rleZeros]
    split_ifs
    · exact ⟨_, _, rfl, (by decide : 18 ≠ 16)⟩
    · exact ⟨_, _, rfl, (by decide : 17 ≠ 16)⟩
    · exact ⟨_, _, rfl, (by decide : 0 ≠ 16)⟩
  · exact ⟨_, _, rfl, by show v ≠ 16; omega⟩

/-- The first item of a list of lengths is no repeat (R207). -/
theorem rle_eq_cons {lens : List Nat} (hne : lens ≠ []) (hlens : ∀ l ∈ lens, l ≤ 15) :
    ∃ e items, rle lens = e :: items ∧ e.1 ≠ 16 := by
  cases lens with
  | nil => exact absurd rfl hne
  | cons v rest =>
    obtain ⟨e, items, hrun, he⟩ :=
      rleRun_eq_cons (hlens v List.mem_cons_self) (rest.takeWhile (· == v)).length
    refine ⟨e, items ++ rleLoop rest.length (rest.drop (rest.takeWhile (· == v)).length), ?_, he⟩
    rw [rle, List.length_cons, rleLoop, hrun, List.cons_append]

/-- What the items of a plan stand for (R206, R207): the lengths that are sent. -/
theorem dynPlan_cls_itemsFor (toks : List Token) :
    expandItems (dynPlan toks).cls [] =
        (dynPlan toks).ll.take (dynPlan toks).nlen ++ (dynPlan toks).dl.take (dynPlan toks).ndist ∧
      ∃ e items, (dynPlan toks).cls = e :: items ∧ e.1 ≠ 16 := by
  obtain ⟨hllen, hll, -⟩ := dynPlan_ll_spec toks
  obtain ⟨-, hdl, -⟩ := dynPlan_dl_spec toks
  have hnlen := dynPlan_nlen_range toks
  have hsentl : ∀ l ∈ (dynPlan toks).ll.take (dynPlan toks).nlen, l ≤ 15 := fun l hl => hll l (List.mem_of_mem_take hl)
  have hsentd : ∀ l ∈ (dynPlan toks).dl.take (dynPlan toks).ndist, l ≤ 15 := fun l hl => hdl l (List.mem_of_mem_take hl)
  have hitems := (itemsFor_rle hsentl []).append (itemsFor_rle hsentd _)
  have hne : (dynPlan toks).ll.take (dynPlan toks).nlen ≠ [] :=
    List.ne_nil_of_length_pos (by rw [List.length_take, hllen]; omega)
  obtain ⟨e, items, hcons, he⟩ := rle_eq_cons hne hsentl
  rw [dynPlan_cls]
  exact ⟨hitems.1, e, _, by rw [hcons, List.cons_append], he⟩

theorem decodable_dynPlan (toks : List Token) :
    Decodable (dynPlan toks).ll ∧ Decodable (dynPlan toks).dl ∧ Decodable (dynPlan toks).cl := by
  rw [dynPlan_ll, dynPlan_dl, dynPlan_cl]
  exact ⟨decodable_buildLengths (.inl rfl) (by decide) _, decodable_buildLengths (.inl rfl) (by decide) _,
    decodable_buildLengths (.inr rfl) (by decide) _⟩

/-- The decoder on the counts of a dynamic header (R240). -/
theorem leadsTo_counts {d0 d : State} {x : List Byte} {pos nlen ndist ncode : Nat} {rest : List Bool} {final : Bool}
    (cl : List Nat) (hnlen : 257 ≤ nlen ∧ nlen ≤ 286) (hndist : 1 ≤ ndist ∧ ndist ≤ 30)
    (hncode : 4 ≤ ncode ∧ ncode ≤ 19)
    (h : DecoderAt d0 x pos
      (bitsLSB (nlen - 257) 5 ++ bitsLSB (ndist - 1) 5 ++ bitsLSB (ncode - 4) 4 ++ rest) d)
    (hd : d.dstate = .dynHdr) (hfinal : d.bfinal = final) :
    ∃ d', LeadsTo d d' ∧ DecoderAt d0 x (pos + 14) rest d' ∧ ReadingCl cl nlen ndist ncode final 0 d' := by
  have hb := h.atBoundary
  have hbits := h.unread
  rw [unread_of_boundary hb] at hbits
  have hstep := dynHdrStep_of_fits hb (by omega) (by omega) (by omega) hbits
  have hread : (bitsLSB (nlen - 257) 5 ++ bitsLSB (ndist - 1) 5 ++ bitsLSB (ncode - 4) 4).length = 14 := by
    simp only [List.length_append, length_bitsLSB]
  have hmoved := h.moved (p := d.bitposIn + 14) (by rw [hread])
  rw [hread] at hmoved
  refine ⟨_, leadsTo_of_plain (h.decoding (by rw [hd]; decide)) (fetchElement_dynHdr hd)
    ((plainStep_dynHdr hd).trans hstep), hmoved.control, rfl, ⟨?_, ?_, ?_, hfinal⟩, rfl, rfl⟩
  · rw [Nat.sub_add_cancel hnlen.1]
    exact toNat_ofNat_of_fits (n := 9) (by omega) (Nat.le_refl _)
  · rw [Nat.sub_add_cancel hndist.1]
    exact toNat_ofNat_of_fits (n := 6) (by omega) (Nat.le_refl _)
  · rw [Nat.sub_add_cancel hncode.1]
    exact toNat_ofNat_of_fits (n := 5) (by omega) (Nat.le_refl _)

/-- The decoder on the header of a dynamic block (R213, R240 to R252). -/
theorem leadsTo_dynHeader {d0 d : State} {x : List Byte} {pos : Nat} {rest : List Bool} {final : Bool}
    (toks : List Token) (h : DecoderAt d0 x pos (dynHeaderBits (dynPlan toks) ++ rest) d) (hd : d.dstate = .dynHdr)
    (hfinal : d.bfinal = final) :
    ∃ d', LeadsTo d d' ∧ DecoderAt d0 x (pos + (dynHeaderBits (dynPlan toks)).length) rest d' ∧
      InSymbols (dynPlan toks).ll (dynPlan toks).dl final d' := by
  obtain ⟨hllcode, hdlcode, hclcode⟩ := decodable_dynPlan toks
  obtain ⟨hllen, -, hllused⟩ := dynPlan_ll_spec toks
  obtain ⟨hdlen, -, -⟩ := dynPlan_dl_spec toks
  obtain ⟨hcl, hclused⟩ := dynPlan_cl_spec toks
  obtain ⟨hexpand, e, items, hcons, he⟩ := dynPlan_cls_itemsFor toks
  have hclen : (dynPlan toks).cl.length = 19 := by
    rw [dynPlan_cl]
    exact (buildLengths_frequencies (.inr rfl) (by decide) _).1
  have hnlen := dynPlan_nlen_range toks
  have hndist := dynPlan_ndist_range toks
  have hncode := dynPlan_ncode_range toks
  have hclsent : usedCount (clOrder.map fun y => (dynPlan toks).cl.getD y 0) ≤ (dynPlan toks).ncode :=
    (dynPlan_ncode toks).symm ▸ Nat.le_max_right _ _
  have hllsent : usedCount (dynPlan toks).ll ≤ (dynPlan toks).nlen := (dynPlan_nlen toks).symm ▸ Nat.le_max_right _ _
  have hdlsent : usedCount (dynPlan toks).dl ≤ (dynPlan toks).ndist := (dynPlan_ndist toks).symm ▸ Nat.le_max_right _ _
  have hfits (e : Nat × Nat) (he : e ∈ (dynPlan toks).cls) : ItemFits e ∧ (dynPlan toks).cl.getD e.1 0 ≠ 0 :=
    ⟨dynPlan_cls_fits toks e he,
      hclused _ (List.mem_map_of_mem he) (Nat.lt_succ_of_le (dynPlan_cls_fits toks e he).1)⟩
  have hsplit : dynHeaderBits (dynPlan toks) = (bitsLSB ((dynPlan toks).nlen - 257) 5 ++
      bitsLSB ((dynPlan toks).ndist - 1) 5 ++ bitsLSB ((dynPlan toks).ncode - 4) 4) ++
      (clFieldsFrom (dynPlan toks).cl (dynPlan toks).ncode 0 ++
        (dynPlan toks).cls.flatMap (itemBits (dynPlan toks).cl)) := by
    rw [dynHeaderBits, clFieldsFrom, List.drop_zero, List.append_assoc _ _ (List.flatMap _ _)]
    rfl
  rw [hsplit, List.append_assoc] at h
  obtain ⟨d₁, hlead₁, hat₁, hd₁⟩ := leadsTo_counts (dynPlan toks).cl hnlen hndist hncode h hd hfinal
  rw [List.append_assoc] at hat₁
  obtain ⟨d₂, hlead₂, hat₂, hd₂⟩ := leadsTo_clFields hclen hcl hclcode hclsent hncode.2 (by omega) hat₁ hd₁
  obtain ⟨d₃, hlead₃, hat₃, hd₃⟩ := leadsTo_items hclcode (by rw [hcons]; exact List.cons_ne_nil _ _) hfits
    (fun e' hhead h16 => by rw [hcons] at hhead; cases hhead; exact absurd h16 he) hexpand
    (by rw [List.length_append, List.length_take, List.length_take, hllen, hdlen]; omega)
    (by
      rw [List.take_left' (by rw [List.length_take, hllen]; omega)]
      exact rightpad_take_of_usedCount_le hllen hllsent hnlen.2)
    (by
      rw [List.drop_left' (by rw [List.length_take, hllen]; omega), List.take_take, Nat.min_self]
      exact rightpad_take_of_usedCount_le hdlen hdlsent hndist.2)
    hllcode hdlcode (hllused 256 (List.mem_append_right _ List.mem_cons_self) (by decide)) hat₂ hd₂
  refine ⟨d₃, hlead₁.trans (hlead₂.trans hlead₃), ?_, hd₃⟩
  have hlength : (dynHeaderBits (dynPlan toks)).length =
      14 + ((clFieldsFrom (dynPlan toks).cl (dynPlan toks).ncode 0).length +
      ((dynPlan toks).cls.flatMap (itemBits (dynPlan toks).cl)).length) := by
    rw [hsplit]
    simp only [List.length_append, length_bitsLSB]
  rw [hlength, ← Nat.add_assoc, ← Nat.add_assoc]
  exact hat₃

/-- The decoder on a dynamic block (R213). -/
theorem decodes_dynamic {w pos : Nat} {x y : List Byte} {toks : List Token} (final : Bool) (hwmax : w ≤ 32768)
    (hx : Expands w x toks y) :
    Decodes w pos x (headerBits final 2 ++ dynBits (dynPlan toks) toks) final y := by
  intro d0 rest d hw hcap h hd
  subst hw
  obtain ⟨hllcode, hdlcode, -⟩ := decodable_dynPlan toks
  obtain ⟨-, -, hllused⟩ := dynPlan_ll_spec toks
  obtain ⟨-, -, hdlused⟩ := dynPlan_dl_spec toks
  have hcodes (t : Token) (ht : t ∈ toks) : TokenHasCode (dynPlan toks).ll (dynPlan toks).dl t :=
    ⟨hllused _ (List.mem_append_left _ (List.mem_map_of_mem ht)) (litLenSymbol_lt t),
      fun j hj => hdlused j (List.mem_filterMap.mpr ⟨t, ht, hj⟩) (distSymbol_lt hj)⟩
  have heob : (dynPlan toks).ll.getD 256 0 ≠ 0 :=
    hllused 256 (List.mem_append_right _ List.mem_cons_self) (by decide)
  rw [List.append_assoc] at h
  have hhdr := leadsTo_header (i := .blockDynamic final) (by cases final <;> decide) rfl
    (commit_atBoundary (advance (headerBits final 2).length d)) h hd
  have hentered : DecoderAt d0 x (pos + (headerBits final 2).length) (dynBits (dynPlan toks) toks ++ rest)
      (enterBlock final .dynHdr (advance (headerBits final 2).length d)) := h.skip.control
  rw [dynBits, List.append_assoc] at hentered
  obtain ⟨d₁, hlead₁, hat₁, hd₁⟩ := leadsTo_dynHeader (final := final) toks hentered rfl rfl
  obtain ⟨d₂, hlead₂, hat₂, hd₂⟩ := leadsTo_tokens hwmax hllcode hdlcode hcodes heob hx hcap hat₁ hd₁
  refine ⟨d₂, hhdr.trans (hlead₁.trans hlead₂), ?_, hd₂⟩
  rw [dynBits, List.length_append, List.length_append, ← Nat.add_assoc, ← Nat.add_assoc]
  exact hat₂

end Sys2Proof.Machine

/-! PROOFS. The compressor's stream (spec 42_matcher R150 to R160, 44_block_encoder R200 to R213, 45_inflate R263): what
has been written decodes to the bytes of the closed blocks, and the token buffer stands for the rest. -/

namespace Sys2Proof.Machine

/-! ## A block -/

/-- The raw bytes of the current block are read back from the window (R201, R208). -/
theorem blockBytes_of_history {x y : List Byte} {s : State} (h : History (x ++ y) s) (hblk : s.blkBytes = y.length)
    (hy : y.length ≤ wsize s.params) : blockBytes s = y := by
  obtain ⟨-, -, -, htotal, -, hread⟩ := h
  rw [List.length_append] at htotal
  refine List.ext_getElem (by rw [length_blockBytes, hblk]) fun k _ hk => ?_
  have hpos : s.wtotal - s.blkBytes + k = x.length + k := by omega
  simp only [blockBytes, List.getElem_map, List.getElem_range, hpos]
  refine hread _ _ ?_ (by rw [List.length_append]; omega)
  rw [List.getElem?_append_right (Nat.le_add_right _ _), Nat.add_sub_cancel_left, List.getElem?_eq_getElem hk]

/-- The decoder decodes the block that the encoder emits, whatever its type (R263). -/
theorem decodes_blockBits {x y : List Byte} {s : State} (final : Bool) (hw : wsize s.params ≤ 32768)
    (hx : Expands (wsize s.params) x s.tok y) (h : History (x ++ y) s) (hblk : s.blkBytes = y.length)
    (hy : y.length ≤ wsize s.params) :
    Decodes (wsize s.params) s.bitposOut x (blockBits final s) final y := by
  rw [blockBits, blockType, chooseType]
  split_ifs
  · show Decodes _ _ _ (headerBits final 0 ++ storedBits s.bitposOut (blockBytes s)) _ _
    rw [blockBytes_of_history h hblk hy]
    exact decodes_stored final (by omega)
  · exact decodes_fixed final hw hx
  · exact decodes_dynamic final hw hx

/-! ## A token -/

/-- A byte of the history or of the lookahead (R150). -/
theorem dataAt_of_history {x : List Byte} {s : State} {p : Nat} (h : History x s) (hp : p < x.length + s.la.length)
    (hrecent : x.length ≤ p + wsize s.params) : (x ++ s.la)[p]? = some (dataAt s p) := by
  obtain ⟨-, -, -, htotal, -, hread⟩ := h
  rw [dataAt, htotal]
  rcases Nat.lt_or_ge p x.length with hold | hnew
  · rw [if_pos hold, List.getElem?_append_left hold, List.getElem?_eq_getElem hold,
      hread p _ (List.getElem?_eq_getElem hold) hrecent]
  · rw [if_neg (Nat.not_lt.mpr hnew), List.getElem?_append_right hnew]
    have hlt : p - x.length < s.la.length := by omega
    rw [List.getD_eq_getElem _ _ hlt, List.getElem?_eq_getElem hlt]

/-- The token that is accepted next stands for the bytes it takes from the lookahead (R154, R158). -/
theorem nextToken_standsFor {x : List Byte} {s : State} (h : History x s) (hchain : s.ChainInv)
    (hla : 0 < s.la.length) :
    TokenStandsFor (wsize s.params) x (s.la.take (tokenSpan (nextToken s))) (nextToken s) := by
  unfold nextToken
  split
  · next m hm =>
    obtain ⟨hlo, hhi, hfits, hdlo, hdhi, hequal⟩ := findMatchIsSound s m hchain hm
    have htotal : s.wtotal = x.length := by
      obtain ⟨-, -, -, htotal, -⟩ := h
      exact htotal
    rw [htotal] at hdhi hequal
    have htaken (p : Nat) (hp : p < x.length + m.len) : (x ++ s.la.take m.len)[p]? = (x ++ s.la)[p]? := by
      rw [← List.getElem?_take_of_lt (l := x ++ s.la) hp, List.take_length_add_append]
    refine ⟨by rw [tokenSpan, List.length_take]; omega, hlo, hhi, hdlo, hdhi, fun k hk => ?_⟩
    have hsource := dataAt_of_history (p := x.length - m.dist + k) h (by omega) (by omega)
    have htarget := dataAt_of_history (p := x.length + k) h (by omega) (by omega)
    rw [List.getElem?_append_right (Nat.le_add_right _ _), Nat.add_sub_cancel_left] at htarget
    rw [tokenSpan, htaken _ (by omega), List.getElem?_take_of_lt hk, hsource, htarget, hequal k hk]
  · obtain ⟨b, bs, hcons⟩ := List.exists_cons_of_length_pos hla
    rw [hcons]
    rfl

/-- Accepting a token takes its bytes into the history (R158). -/
theorem takeToken_history {x : List Byte} {s : State} (h : History x s) :
    History (x ++ s.la.take (tokenSpan (nextToken s))) (takeToken s) := by
  have hinsert := insertRange_frame s.wtotal (tokenSpan (nextToken s)) { s with tok := s.tok ++ [nextToken s] }
  unfold takeToken
  generalize insertRange s.wtotal (tokenSpan (nextToken s)) { s with tok := s.tok ++ [nextToken s] } = u at hinsert
  have hla : u.la = s.la := by rw [hinsert]
  have hu : History x u := by
    rw [hinsert]
    exact h
  rw [← hla]
  exact hu.append (u.la.take (tokenSpan (nextToken s)))

/-- Accepting a token writes nothing but a closed block (R158). -/
theorem takeToken_output {s : State} (hm : s.mode = .compress) :
    (takeToken s).out = s.out ∧ (takeToken s).oacc = s.oacc ∧ (takeToken s).onb = s.onb ∧
      (takeToken s).bitposOut = s.bitposOut := by
  have hinsert := insertRange_frame s.wtotal (tokenSpan (nextToken s)) { s with tok := s.tok ++ [nextToken s] }
  unfold takeToken
  generalize insertRange s.wtotal (tokenSpan (nextToken s)) { s with tok := s.tok ++ [nextToken s] } = u at hinsert
  have hmode : u.mode ≠ .decompress := by
    rw [hinsert]
    exact fun hd => nomatch hm.symm.trans hd
  have hout : (consumeToken (tokenSpan (nextToken s)) u).out = u.out :=
    (windowAppendAll_noOutput (u.la.take (tokenSpan (nextToken s))) hmode).1
  refine ⟨?_, ?_, ?_, ?_⟩
  · rw [hout, hinsert]
  all_goals
    simp only [consumeToken]
    rw [windowAppendAll_frame, hinsert]

/-! ## The stream of an open compress stream -/

/-- Of the bytes `x` taken, those before `y` are in the blocks written behind the output `out0`, and `y` in the token
buffer (R201, R263). -/
def Written (out0 : List Byte) (x y : List Byte) (c : State) : Prop :=
  out0 <+: c.out ∧ ∃ bits, outBits c = bytesBits out0 ++ bits ∧ c.bitposOut = bits.length ∧
    Decodes (wsize c.params) 0 [] bits false x ∧ Expands (wsize c.params) x c.tok y ∧ c.blkBytes = y.length

/-- An open compress stream has taken the bytes `x` (R27, R201, R263). -/
def CompressorAt (out0 x : List Byte) (c : State) : Prop :=
  (∃ pre y, x = pre ++ y ∧ Written out0 pre y c) ∧ History x c ∧ c.SinkInv ∧ c.TokensSafe

section
variable {out0 x y : List Byte} {c : State}

theorem wsize_of_legal {p : Params} (h : p.Legal) : 512 ≤ wsize p ∧ wsize p ≤ 32768 := by
  obtain ⟨hlo, hhi, -⟩ := h
  exact ⟨Nat.pow_le_pow_right (n := 2) (by decide) hlo, Nat.pow_le_pow_right (n := 2) (by decide) hhi⟩

/-- Accepting a token adds it to the token buffer (R158). -/
theorem Written.takeToken (h : Written out0 x y c) (hist : History (x ++ y) c) (hm : c.mode = .compress)
    (hchain : c.ChainInv) (hla : 0 < c.la.length) :
    Written out0 x (y ++ c.la.take (tokenSpan (nextToken c))) (takeToken c) := by
  obtain ⟨hout, bits, hbits, hpos, hdecodes, hexpands, hblk⟩ := h
  obtain ⟨hparams, htok, hblk', -, -⟩ := takeToken_fields hla
  obtain ⟨hout', hacc', honb', hpos'⟩ := takeToken_output hm
  have hspan := tokenSpan_nextToken hla
  refine ⟨hout'.symm ▸ hout, bits, ?_, hpos'.trans hpos, ?_, ?_, ?_⟩
  · rw [outBits, hout', hacc', honb']
    exact hbits
  · rwa [hparams]
  · rw [hparams, htok]
    exact hexpands.concat (nextToken_standsFor hist hchain hla)
  · rw [hblk', hblk, List.length_append, List.length_take, Nat.min_eq_left hspan.2.1]

/-- Emitting a block writes the bits that decode to the bytes of the token buffer (R202, R263). -/
theorem Written.emitted (h : Written out0 x y c) (hist : History (x ++ y) c) (final : Bool)
    (hw : wsize c.params ≤ 32768) (hy : y.length ≤ wsize c.params) :
    out0 <+: (emitBlock final c).out ∧ ∃ bits, outBits (emitBlock final c) = bytesBits out0 ++ bits ∧
      (emitBlock final c).bitposOut = bits.length ∧ bits ≠ [] ∧
      Decodes (wsize c.params) 0 [] bits final (x ++ y) := by
  obtain ⟨hout, bits, hbits, hpos, hdecodes, hexpands, hblk⟩ := h
  refine ⟨hout.trans (putBitList_out_prefix (blockBits final c) c), bits ++ blockBits final c, ?_, ?_, ?_, ?_⟩
  · rw [outBits_emitBlock, hbits, List.append_assoc]
  · rw [emitBlock_bitposOut, hpos, List.length_append]
  · rw [blockBits, headerBits_eq]
    simp
  · refine hdecodes.append ?_
    rw [Nat.zero_add, ← hpos]
    exact decodes_blockBits final hw hexpands hist hblk hy

/-- Emitting a block leaves an empty token buffer (R202). -/
theorem Written.emitBlock (h : Written out0 x y c) (hist : History (x ++ y) c) (hw : wsize c.params ≤ 32768)
    (hy : y.length ≤ wsize c.params) : Written out0 (x ++ y) [] (emitBlock false c) := by
  obtain ⟨hout, bits, hbits, hpos, -, hdecodes⟩ := h.emitted hist false hw hy
  exact ⟨hout, bits, hbits, hpos, hdecodes, .nil _, rfl⟩

/-- Accepting a token takes its bytes (R158). -/
theorem CompressorAt.acceptToken (h : CompressorAt out0 x c) (hm : c.mode = .compress) (hla : 0 < c.la.length) :
    CompressorAt out0 (x ++ c.la.take (tokenSpan (nextToken c))) (acceptToken c) := by
  obtain ⟨⟨pre, y, rfl, hwritten⟩, hist, hsink, hsafe⟩ := h
  have hsafe' := acceptToken_tokensSafe hla hsafe
  obtain ⟨hlegal, ⟨-, hshort, -⟩, hchain⟩ := hsafe
  obtain ⟨hmin, hmax⟩ := wsize_of_legal hlegal
  obtain ⟨hparams, -⟩ := takeToken_fields hla
  have hspan := tokenSpan_nextToken hla
  have htaken := hwritten.takeToken hist hm hchain hla
  have hist' := takeToken_history hist
  have hsink' : (takeToken c).SinkInv := by
    obtain ⟨-, hacc, honb, hpos⟩ := takeToken_output hm
    unfold State.SinkInv
    rwa [hacc, honb, hpos]
  have hlength : (y ++ c.la.take (tokenSpan (nextToken c))).length ≤ wsize (takeToken c).params := by
    obtain ⟨-, -, -, -, -, -, hblk⟩ := hwritten
    have h258 : maxMatch = 258 := rfl
    rw [List.length_append, List.length_take, hparams]
    omega
  rw [List.append_assoc] at hist' ⊢
  rw [acceptToken_eq] at hsafe' ⊢
  split at hsafe'
  · next hclose =>
    rw [if_pos hclose]
    refine ⟨⟨_, [], (List.append_nil _).symm, ?_⟩, hist', emitBlock_sinkInv false hsink', hsafe'⟩
    exact htaken.emitBlock hist' (hparams ▸ hmax) hlength
  · next hopen =>
    rw [if_neg hopen]
    exact ⟨⟨pre, _, rfl, htaken⟩, hist', hsink', hsafe'⟩

/-- The tokeniser takes bytes from the lookahead (R160). -/
theorem CompressorAt.tokenise {data : List Byte} (finishing : Bool) (h : CompressorAt out0 x c)
    (hm : c.mode = .compress) (hdata : x ++ c.la = data) :
    ∃ x', CompressorAt out0 x' (tokenise finishing c) ∧ x' ++ (tokenise finishing c).la = data := by
  refine tokenise_induction (P := fun t => ∃ x', CompressorAt out0 x' t ∧ x' ++ t.la = data) ?_ finishing hm
    ⟨x, h, hdata⟩
  rintro t hmt hla ⟨x', ht, hdata'⟩
  refine ⟨_, ht.acceptToken hmt hla, ?_⟩
  rw [acceptToken_la, List.append_assoc, List.take_append_drop, hdata']

end

/-! ## The commands of a compress stream -/

theorem execAll_cons {i : Instr} {is : List Instr} {s t : State} (h : exec i s = .next t) :
    execAll (i :: is) s = execAll is t := by
  rw [execAll, h]

/-- CINIT opens a stream that has taken nothing (R293). -/
theorem exec_cinit_compressorAt {s : State} (hlegal : s.params.Legal) (hlevel : s.level.toNat ≤ 9) :
    ∃ c, exec .cinit s = .next c ∧ CompressorAt s.out [] c ∧ c.la = [] ∧ c.phase = .active ∧ c.mode = .compress ∧
      c.params = s.params := by
  have hbits : outBits (endCommand
      { openStream .compress s with effort := s.params.effortTable.getD s.level.toNat 0 }) = bytesBits s.out ++ [] := rfl
  have hexec : exec .cinit s = .next (endCommand
      { openStream .compress s with effort := s.params.effortTable.getD s.level.toNat 0 }) := by
    have hnot : ¬ levelMax < s.level.toNat := Nat.not_lt.mpr hlevel
    show execCinit s = _
    rw [execCinit, if_neg hnot]
  refine ⟨_, hexec, ⟨⟨[], [], rfl, ?_⟩, ?_, ?_, ?_⟩, rfl, rfl, rfl, rfl⟩
  · exact ⟨List.prefix_rfl, [], hbits, rfl, decodes_nil _ _ _, .nil _, rfl⟩
  · exact ⟨List.Pairwise.nil, (Nat.zero_mod _).symm, (Nat.zero_min _).symm, rfl, rfl, fun p b hp _ => nomatch hp⟩
  · exact (by decide : State.reset.SinkInv)
  · exact resetState_tokensSafe hlegal

/-- The end of a command does not concern the stream (R290). -/
theorem CompressorAt.endCommand {out0 x : List Byte} {c : State} (h : CompressorAt out0 x c) :
    CompressorAt out0 x (endCommand c) := h

theorem History.finished {x : List Byte} {c : State} (h : History x c) :
    History x (endCommand { c with phase := .finished }) := h

/-- FEED takes bytes (R295). -/
theorem exec_feed_compressorAt {out0 x data : List Byte} {c : State} (chunk : List Byte)
    (h : CompressorAt out0 x c) (hdata : x ++ c.la = data) (hp : c.phase = .active) (hm : c.mode = .compress) :
    ∃ c' x', exec (.feed chunk) c = .next c' ∧ CompressorAt out0 x' c' ∧ x' ++ c'.la = data ++ chunk ∧
      c'.phase = .active ∧ c'.mode = .compress ∧ c'.params = c.params := by
  obtain ⟨hp', hm'⟩ := feedCompress_open chunk hp hm
  have hwith : CompressorAt out0 x { c with la := c.la ++ chunk, totalIn := c.totalIn + chunk.length } := h
  obtain ⟨x', hat, hdata'⟩ := hwith.tokenise (data := data ++ chunk) false hm (by rw [← hdata, List.append_assoc])
  have hparams : (feedCompress chunk c).params = c.params := by rw [feedCompress, tokenise_compressFrame]
  have hat' : CompressorAt out0 x' (feedCompress chunk c) := hat
  exact ⟨_, x', exec_feed_compress chunk hp hm, hat'.endCommand, hdata', hp', hm', hparams⟩

/-- FINISH writes the final block and pads it to whole bytes (R297): the bytes written decode to all bytes taken. -/
theorem exec_finish_compressorAt {out0 x data : List Byte} {c : State} (h : CompressorAt out0 x c)
    (hdata : x ++ c.la = data) (hp : c.phase = .active) (hm : c.mode = .compress) :
    ∃ t stream bits pad, exec .finish c = .next t ∧ t.out = out0 ++ stream ∧ t.phase = .finished ∧ History data t ∧
      bytesBits stream = bits ++ pad ∧ bits ≠ [] ∧ Decodes (wsize c.params) 0 [] bits true data := by
  have hexec : exec .finish c = .next (endCommand (finishCompress c)) := by
    show execFinish c = _
    simp only [execFinish, hp, hm]
  obtain ⟨x', ⟨⟨pre, y, rfl, hwritten⟩, hist, hsink, hlegal, ⟨-, hshort, -⟩, -⟩, hdata'⟩ := h.tokenise true hm hdata
  have hla : (tokenise true c).la = [] := by
    obtain ⟨k, heq, -, hend⟩ := tokenise_iterate true c
    rw [heq]
    exact hend.resolve_right fun ⟨hfalse, _⟩ => nomatch hfalse
  have hparams : (tokenise true c).params = c.params := by rw [tokenise_compressFrame]
  rw [hla, List.append_nil] at hdata'
  obtain ⟨-, hmax⟩ := wsize_of_legal hlegal
  have hy : y.length ≤ wsize (tokenise true c).params := by
    obtain ⟨-, -, -, -, -, -, hblk⟩ := hwritten
    omega
  obtain ⟨hout, bits, hbits, -, hne, hdecodes⟩ := hwritten.emitted hist true hmax hy
  obtain ⟨honb, -, -, hpadded, -, hframe⟩ := alignOutPadsWithZeros _ (emitBlock_sinkInv true hsink)
  obtain ⟨stream, hstream⟩ := hout.trans (putBitList_out_prefix (bitsLSB 0 _) (emitBlock true (tokenise true c)))
  have hwhole : outBits (alignOut (emitBlock true (tokenise true c))) = bytesBits (out0 ++ stream) := by
    rw [hstream, outBits, honb]
    exact List.append_nil _
  rw [hwhole, bytesBits_append, hbits, List.append_assoc] at hpadded
  have hist' : History data (alignOut (emitBlock true (tokenise true c))) := by
    rw [hframe, ← hdata']
    exact hist
  rw [hparams, hdata'] at hdecodes
  exact ⟨_, stream, bits, _, hexec, hstream.symm, rfl, hist'.finished, List.append_cancel_left hpadded, hne,
    hdecodes⟩

/-- The rest of a compress stream: chunks and the end (R263, R295, R297). -/
theorem execAll_feeds_finish {out0 x data : List Byte} {c : State} (chunks : List (List Byte))
    (h : CompressorAt out0 x c) (hdata : x ++ c.la = data) (hp : c.phase = .active) (hm : c.mode = .compress) :
    ∃ t stream bits pad, execAll (chunks.map Instr.feed ++ [.finish]) c = .next t ∧ t.out = out0 ++ stream ∧
      t.phase = .finished ∧ History (data ++ chunks.flatten) t ∧ bytesBits stream = bits ++ pad ∧ bits ≠ [] ∧
      Decodes (wsize c.params) 0 [] bits true (data ++ chunks.flatten) := by
  induction chunks generalizing c x data with
  | nil =>
    obtain ⟨t, stream, bits, pad, hexec, hrest⟩ := exec_finish_compressorAt h hdata hp hm
    rw [List.flatten_nil, List.append_nil]
    exact ⟨t, stream, bits, pad, execAll_cons hexec, hrest⟩
  | cons chunk chunks ih =>
    obtain ⟨c', x', hexec, hat, hdata', hp', hm', hparams⟩ := exec_feed_compressorAt chunk h hdata hp hm
    obtain ⟨t, stream, bits, pad, hexecs, hrest⟩ := ih hat hdata' hp' hm'
    rw [hparams, List.append_assoc, ← List.flatten_cons] at hrest
    exact ⟨t, stream, bits, pad, (execAll_cons hexec).trans hexecs, hrest⟩

/-- The stream that the compressor produces for a sequence of chunks (R263, R293 to R297). -/
theorem execAll_compress {s : State} (chunks : List (List Byte)) (hlegal : s.params.Legal)
    (hlevel : s.level.toNat ≤ 9) :
    ∃ t stream bits pad, execAll (.cinit :: chunks.map Instr.feed ++ [.finish]) s = .next t ∧
      t.out = s.out ++ stream ∧ t.phase = .finished ∧ History chunks.flatten t ∧
      bytesBits stream = bits ++ pad ∧ bits ≠ [] ∧ Decodes (wsize s.params) 0 [] bits true chunks.flatten := by
  obtain ⟨c, hexec, hat, hla, hp, hm, hparams⟩ := exec_cinit_compressorAt hlegal hlevel
  obtain ⟨t, stream, bits, pad, hexecs, hrest⟩ := execAll_feeds_finish (data := []) chunks hat (by rw [hla]; rfl) hp hm
  rw [hparams, List.nil_append] at hrest
  exact ⟨t, stream, bits, pad, (execAll_cons hexec).trans hexecs, hrest⟩

end Sys2Proof.Machine

/-! PROOFS. The round trip (spec 45_inflate R263, 47_commands R293 to R299): the decoder, fed the compressor's stream in
any pieces, ends with the bytes that were compressed. -/

namespace Sys2Proof.Machine

/-! ## The stream in one piece -/

/-- The decoder has ended with the bytes `data` produced (R235, R299). -/
def Decoded (out0 data : List Byte) (w : State) : Prop :=
  w.out = out0 ++ data ∧ w.dstate = .done ∧ w.phase = .done ∧ w.err = none ∧ History data w

/-- A stream has been opened for decoding (R294). -/
def JustOpened (d : State) : Prop :=
  d.mode = .decompress ∧ d.phase = .active ∧ d.AtBoundary ∧ d.dstate = .hdr ∧ d.inq = [] ∧ d.bitposIn = 0 ∧
    d.err = none ∧ d.totalOut = 0 ∧ History [] d

theorem openStream_justOpened (r : State) : JustOpened (endCommand (openStream .decompress r)) :=
  ⟨rfl, rfl, ⟨rfl, rfl⟩, rfl, rfl, rfl, rfl, rfl, List.Pairwise.nil, (Nat.zero_mod _).symm, (Nat.zero_min _).symm, rfl,
    rfl, fun _ _ hp _ => nomatch hp⟩

/-- One FEED of a whole stream, padded to whole bytes, ends the decoding (R263, R299). -/
theorem exec_feed_decodes {d : State} {stream data : List Byte} {bits pad : List Bool} (hopen : JustOpened d)
    (hbits : bytesBits stream = bits ++ pad) (hdecodes : Decodes (wsize d.params) 0 [] bits true data)
    (hcap : data.length ≤ d.outLimit.toNat) :
    ∃ w, exec (.feed stream) d = .next w ∧ Decoded d.out data w := by
  obtain ⟨hm, hp, hb, hds, hinq, hpos, herr, htotal, hist⟩ := hopen
  have hat : DecoderAt d [] 0 (bits ++ pad) (acceptInput stream d) := by
    refine ⟨⟨hm, hp, hb, herr⟩, ⟨?_, hpos⟩, hist, ⟨(List.append_nil _).symm, htotal⟩, rfl, rfl⟩
    rw [acceptInput_inq, hinq, hbits, List.nil_append]
  obtain ⟨d', hlead, hat', hdone⟩ := hdecodes d pad _ rfl hcap hat hds
  obtain ⟨⟨hm', hp', -, herr'⟩, -, hist', ⟨hout', -⟩, -⟩ := hat'
  have hdec : decoding d' = false := by simp [decoding, hdone]
  have hexec := exec_feed_decompress stream hp hm (hlead d' (.stop hdec))
  rw [settleDecode_of_done hp' hdone] at hexec
  exact ⟨_, hexec, hout', hdone, rfl, herr', hist'⟩

/-! ## The stream in pieces -/

/-- Two ends of the decoding that differ at most in what is said of the input (R299). -/
def SameEnd (u w : State) : Prop :=
  { u with inq := w.inq, totalIn := w.totalIn, pending := w.pending, trail := w.trail } = w

theorem SameEnd.trans {s t u : State} (h : SameEnd s t) (k : SameEnd t u) : SameEnd s u := by
  unfold SameEnd at *
  rw [← h] at k
  exact k

theorem SameEnd.decoded_iff {out0 data : List Byte} {u w : State} (h : SameEnd u w) :
    Decoded out0 data u ↔ Decoded out0 data w := by
  unfold SameEnd at h
  rw [← h]
  exact Iff.rfl

/-- After the end of the stream more chunks change nothing else (R299). -/
theorem execAll_feeds_of_done (pieces : List (List Byte)) {t : State} (hp : t.phase = .done) :
    ∃ u, execAll (pieces.map Instr.feed) t = .next u ∧ SameEnd t u := by
  induction pieces generalizing t with
  | nil => exact ⟨t, rfl, rfl⟩
  | cons piece pieces ih =>
    have hexec : exec (.feed piece) t = .next (endCommand (feedDone piece t)) := by
      show execFeed piece t = _
      simp only [execFeed, hp]
    obtain ⟨u, hexecs, hsame⟩ := ih (t := endCommand (feedDone piece t)) hp
    exact ⟨u, (execAll_cons hexec).trans hexecs, SameEnd.trans (t := endCommand (feedDone piece t)) rfl hsame⟩

/-- A stream that is open for decoding, between two commands. -/
def OpenDecoder (d : State) : Prop := d.phase = .active ∧ d.mode = .decompress ∧ d.AtBoundary ∧ d.DecoderSafe

/-- FEED leaves the stream open for decoding or ends it (R295, R299). -/
theorem exec_feed_openDecoder {chunk : List Byte} {s t : State} (h : OpenDecoder s)
    (he : exec (.feed chunk) s = .next t) (hp : t.phase = .active) : OpenDecoder t := by
  obtain ⟨hps, hms, hb, hsafe⟩ := h
  have hsafe' : t.DecoderSafe := by
    obtain ⟨t', ht', hsafe'⟩ := execFeed_decoderSafe chunk hsafe
    obtain rfl := Host.Outcome.next.inj (he.symm.trans ht')
    exact hsafe'
  obtain ⟨-, -, hT, hH⟩ := hsafe
  obtain ⟨v, hrun⟩ := exists_runsTo (s := acceptInput chunk s) ⟨hT, hH.1, hH.2.1⟩
  obtain rfl := Host.Outcome.next.inj (he.symm.trans (exec_feed_decompress chunk hps hms hrun))
  by_cases hend : v.phase = .active ∧ v.dstate = .done
  · rw [settleDecode_of_done hend.1 hend.2] at hp
    cases hp
  · have hsettled : settleDecode v = v := if_neg hend
    rw [hsettled] at hp hsafe' ⊢
    have hmv : v.mode = .decompress := hrun.mode.trans hms
    have hdec : decoding v = true := decoding_iff.mpr ⟨hmv, hp, fun hd => hend ⟨hp, hd⟩⟩
    obtain ⟨hbv, -⟩ := (hrun.ends (ready_of_boundary (s := acceptInput chunk s) hb)).2 hdec
    exact ⟨hp, hmv, hbv, hsafe'⟩

/-- A stream that one FEED decodes to its end is decoded to the same end in pieces (R263). -/
theorem execAll_feeds_decoded {out0 data : List Byte} (pieces : List (List Byte)) {d w : State} (h : OpenDecoder d)
    (he : exec (.feed pieces.flatten) d = .next w) (hw : Decoded out0 data w) (hne : pieces ≠ []) :
    ∃ u, execAll (pieces.map Instr.feed) d = .next u ∧ Decoded out0 data u := by
  induction pieces generalizing d w with
  | nil => exact absurd rfl hne
  | cons piece pieces ih =>
    obtain ⟨hp, hm, hb, -, -, hT, hH⟩ := id h
    rw [List.flatten_cons] at he
    obtain ⟨t, u, w', ht, hu, hw', hsame, -⟩ := decompressIgnoresChunking piece pieces.flatten d hp hm hb hT hH
    obtain rfl := Host.Outcome.next.inj (he.symm.trans hw')
    have hu' : Decoded out0 data u := by
      rw [← hsame] at hw
      exact hw
    have hphase : u.phase = .done := by
      obtain ⟨-, -, hphase, -⟩ := hu'
      exact hphase
    by_cases hnil : pieces = []
    · subst hnil
      rw [List.flatten_nil, List.append_nil] at he
      exact ⟨w, execAll_cons he, hw⟩
    · cases hpt : t.phase with
      | active =>
        obtain ⟨v, hv, hdecoded⟩ := ih (exec_feed_openDecoder h ht hpt) hu hu' hnil
        exact ⟨v, (execAll_cons ht).trans hv, hdecoded⟩
      | done =>
        have hend : exec (.feed pieces.flatten) t = .next (endCommand (feedDone pieces.flatten t)) := by
          show execFeed pieces.flatten t = _
          simp only [execFeed, hpt]
        obtain rfl := Host.Outcome.next.inj (hu.symm.trans hend)
        have hdecoded : Decoded out0 data t :=
          (SameEnd.decoded_iff (w := endCommand (feedDone pieces.flatten t)) rfl).mpr hu'
        obtain ⟨v, hv, hsame'⟩ := execAll_feeds_of_done pieces hpt
        exact ⟨v, (execAll_cons ht).trans hv, hsame'.decoded_iff.mp hdecoded⟩
      | idle | finished =>
        have hbad : exec (.feed pieces.flatten) t = .next (badCommand .wrongPhase t) := by
          show execFeed pieces.flatten t = _
          simp only [execFeed, hpt]
        obtain rfl := Host.Outcome.next.inj (hu.symm.trans hbad)
        cases hphase
      | fault =>
        have hignored : exec (.feed pieces.flatten) t = .next t := by
          show execFeed pieces.flatten t = _
          simp only [execFeed, hpt]
        obtain rfl := Host.Outcome.next.inj (hu.symm.trans hignored)
        rw [hphase] at hpt
        cases hpt

/-- Settles O60: what the compressor has written decodes, block by block, to the bytes it has taken; the decoder ends
with them whatever the pieces, and both checksums are that of these bytes. -/
theorem decompressInvertsCompress : Obligations.DecompressInvertsCompress := by
  intro s chunks hlegal hlevel
  obtain ⟨t, stream, bits, pad, hexec, hout, hphase, hist, hbits, hne, hdecodes⟩ :=
    execAll_compress chunks hlegal hlevel
  refine ⟨t, stream, hexec, hout, hphase, fun r pieces hwbits hflat hcap => ?_⟩
  have hopen : JustOpened (endCommand (openStream .decompress r)) := openStream_justOpened r
  have hw : wsize (endCommand (openStream .decompress r)).params = wsize s.params := congrArg (2 ^ ·) hwbits
  obtain ⟨w, hfeed, hdecoded⟩ := exec_feed_decodes hopen hbits (hw ▸ hdecodes) hcap
  have hpieces : pieces ≠ [] := by
    rintro rfl
    have hempty : bits ++ pad = [] := by
      rw [← hbits, ← hflat]
      rfl
    exact hne (List.append_eq_nil_iff.mp hempty).1
  have hdecoder : OpenDecoder (endCommand (openStream .decompress r)) :=
    ⟨rfl, rfl, ⟨rfl, rfl⟩, openStream_decoderSafe (m := .decompress) (by decide) r⟩
  obtain ⟨u, hexecs, hout', hdone, hend, herr, hist'⟩ :=
    execAll_feeds_decoded pieces hdecoder (hflat ▸ hfeed) hdecoded hpieces
  have hdinit : exec .dinit r = .next (endCommand (openStream .decompress r)) := rfl
  exact ⟨u, (execAll_cons hdinit).trans hexecs, hout', hdone, hend, herr, hist'.adler_eq hist⟩

end Sys2Proof.Machine

/-! PROOFS. The checksum update (spec 46_checksum R280): each register holds its sum modulo 65521, and no other field of
the state moves. -/

namespace Sys2Proof.Machine

/-- No bit of a reduced sum is lost: 65521 is below `2 ^ 16` (R280). -/
theorem toNat_ofNat_mod_adlerBase (n : Nat) : (BitVec.ofNat 16 (n % adlerBase)).toNat = n % adlerBase := by
  have hlt : n % adlerBase < adlerBase := Nat.mod_lt n (by decide)
  exact Nat.mod_eq_of_lt (hlt.trans (by decide : adlerBase < 2 ^ 16))

theorem adlerUpdate_s1_toNat (b : Byte) (s : State) :
    (adlerUpdate b s).s1.toNat = (s.s1.toNat + b.toNat) % adlerBase := by
  rw [adlerUpdate_s1, toNat_ofNat_mod_adlerBase]

/-- The second sum adds the first one as the update leaves it (R280). -/
theorem adlerUpdate_s2_toNat (b : Byte) (s : State) :
    (adlerUpdate b s).s2.toNat = (s.s2.toNat + (adlerUpdate b s).s1.toNat) % adlerBase := by
  rw [adlerUpdate_s2, toNat_ofNat_mod_adlerBase, adlerUpdate_s1_toNat]

theorem adlerUpdate_frame (b : Byte) (s : State) :
    adlerUpdate b s = { s with s1 := (adlerUpdate b s).s1, s2 := (adlerUpdate b s).s2 } := rfl

/-- Settles O13: the registers hold the two sums in full, and the update writes nothing else. -/
theorem adlerUpdateAddsByte : Obligations.AdlerUpdateAddsByte := by
  intro b s
  have hfirst : (adlerUpdate b s).s1.toNat = (s.s1.toNat + b.toNat) % 65521 := adlerUpdate_s1_toNat b s
  have hsecond : (adlerUpdate b s).s2.toNat = (s.s2.toNat + (s.s1.toNat + b.toNat) % 65521) % 65521 := by
    rw [adlerUpdate_s2_toNat, hfirst, adlerBase]
  exact ⟨hfirst, hsecond, adlerUpdate_frame b s⟩

end Sys2Proof.Machine

/-! PROOFS. What a command appends to the window (spec 41_window R140, R141, 46_checksum R280), as a relation that
composes along a run. -/

namespace Sys2Proof.Machine

/-! ## The window on its own -/

/-- The window and the checksum of a state, with everything else at its reset value (R26, R32). -/
def windowPart (s : State) : State :=
  { State.reset with
    params := s.params, win := s.win, wpos := s.wpos, whave := s.whave, wtotal := s.wtotal, s1 := s.s1, s2 := s.s2 }

/-- `Window.append` reads of a state only its window and checksum, but for the question whether it produces
(R140). -/
theorem windowPart_windowAppend (b : Byte) (s : State) :
    windowPart (windowAppend b s) = windowAppend b (windowPart s) := by
  unfold windowAppend windowEmit
  split <;> rfl

theorem windowPart_windowAppendAll (bs : List Byte) (s : State) :
    windowPart (windowAppendAll bs s) = windowAppendAll bs (windowPart s) := by
  induction bs generalizing s with
  | nil => rfl
  | cons b bs ih => rw [windowAppendAll_cons, windowAppendAll_cons, ih, windowPart_windowAppend]

/-- The window and the checksum of `t` are those of `s` after the bytes `bs` (R140, R141). -/
def Appended (bs : List Byte) (s t : State) : Prop := windowPart t = windowAppendAll bs (windowPart s)

theorem Appended.refl (s : State) : Appended [] s s := rfl

theorem Appended.of_windowPart_eq {s t : State} (h : windowPart t = windowPart s) : Appended [] s t := h

theorem Appended.trans {as bs : List Byte} {s t u : State} (h : Appended as s t) (k : Appended bs t u) :
    Appended (as ++ bs) s u := by
  unfold Appended at *
  rw [k, h, windowAppendAll_append]

theorem appended_windowAppendAll (bs : List Byte) (s : State) : Appended bs s (windowAppendAll bs s) :=
  windowPart_windowAppendAll bs s

theorem Appended.windowHolds {bs : List Byte} {s t : State} (h : Appended bs s t) (hsorted : SparseSorted s.win)
    (hpos : s.wpos < wsize s.params) (hhave : s.whave ≤ wsize s.params) : WindowHolds bs s t := by
  have hheld : WindowHolds bs (windowPart s) (windowAppendAll bs (windowPart s)) :=
    windowAppendAll_windowHolds bs hsorted hpos hhave
  rw [← h] at hheld
  exact hheld

end Sys2Proof.Machine

/-! PROOFS. FEED in decompress mode (spec 45_inflate R230, 47_commands R295, R299, 60_exceptions R325): what one
transition of the decoder consumes, produces and records, and what a run of them does. -/

namespace Sys2Proof.Machine

/-! ## Faults of an element -/

/-- The phase stays, or the step faults with a cause that records the position (R325). -/
def KeepsPhaseOrRaises (s t : State) : Prop := t.phase = s.phase ∨ ∃ c, c.hasPos = true ∧ t = raise c s

theorem keepsPhaseOrRaises_raise {c : Cause} (h : c.hasPos = true) (s : State) : KeepsPhaseOrRaises s (raise c s) :=
  .inr ⟨c, h, rfl⟩

theorem keepsPhaseOrRaises_literal (b : Byte) (s : State) : KeepsPhaseOrRaises s (literal b s) := by
  unfold literal
  split
  · exact keepsPhaseOrRaises_raise rfl s
  · exact .inl (windowAppend_phase b (commit s))

theorem keepsPhaseOrRaises_copyMatch (length distance : Nat) (s : State) :
    KeepsPhaseOrRaises s (copyMatch length distance s) := by
  unfold copyMatch
  split_ifs
  · exact keepsPhaseOrRaises_raise rfl s
  · exact keepsPhaseOrRaises_raise rfl s
  · refine .inl ?_
    rw [windowCopy_frame distance length (commit s)]
    rfl

theorem keepsPhaseOrRaises_finishHeader {s t : State} (h : t.phase = s.phase) :
    KeepsPhaseOrRaises s (finishHeader s t) := by
  unfold finishHeader
  dsimp only
  split
  · exact keepsPhaseOrRaises_raise rfl s
  · split
    · exact .inl h
    · exact keepsPhaseOrRaises_raise rfl s

theorem keepsPhaseOrRaises_appendLengths (v : BitVec 4) (n : Nat) (s : State) :
    KeepsPhaseOrRaises s (appendLengths v n s) := by
  unfold appendLengths
  dsimp only
  split_ifs
  · exact keepsPhaseOrRaises_raise rfl s
  · exact keepsPhaseOrRaises_finishHeader rfl
  · exact .inl rfl

theorem keepsPhaseOrRaises_distanceHalf {j : Nat} {x : BitVec 13} {s t : State}
    (he : matchDistanceHalf j x s = .next t) : KeepsPhaseOrRaises s t := by
  unfold matchDistanceHalf at he
  split at he
  · cases he
  · cases he
    exact keepsPhaseOrRaises_copyMatch _ _ s

/-- An element of the stream that faults records the position of its step (R325). -/
theorem exec_element_keepsPhaseOrRaises {i : Instr} {s t : State} (h : (encode i).format ≠ .cmd)
    (he : exec i s = .next t) : KeepsPhaseOrRaises s t := by
  cases i with
  | reset | cinit | dinit | feed _ | flush | finish | cmdReserved00 | cmdReserved07 | cmdReserved080F _
  | cmdReserved101F _ | cmdReserved203F _ | cmdReserved407F _ | cmdReserved80FF _ => exact absurd rfl h
  | blockStored _ | blockFixed _ | blockDynamic _ | eob => cases he; exact .inl rfl
  | blockReserved _ | litlenInvalid286_287 _ | distInvalid30_31 _ =>
    cases he; exact keepsPhaseOrRaises_raise rfl s
  | lit000_127 b | lit128_143 b | lit144_159 b | lit160_191 b | lit192_255 b =>
    cases he; exact keepsPhaseOrRaises_literal b s
  | len257 x | len258 x | len259 x | len260 x | len261 x | len262 x | len263 x | len264 x | len265 x | len266 x
  | len267 x | len268 x | len269 x | len270 x | len271 x | len272 x | len273 x | len274 x | len275 x | len276 x
  | len277 x | len278 x | len279 x | len280 x | len281 x | len282 x | len283 x | len284 x | len285 x =>
    cases he; exact .inl rfl
  | dist0 x | dist1 x | dist2 x | dist3 x | dist4 x | dist5 x | dist6 x | dist7 x | dist8 x | dist9 x | dist10 x
  | dist11 x | dist12 x | dist13 x | dist14 x | dist15 x | dist16 x | dist17 x | dist18 x | dist19 x | dist20 x
  | dist21 x | dist22 x | dist23 x | dist24 x | dist25 x | dist26 x | dist27 x | dist28 x | dist29 x =>
    exact keepsPhaseOrRaises_distanceHalf (x := x) he
  | cl v => cases he; exact keepsPhaseOrRaises_appendLengths v 1 s
  | rep16 x =>
    cases hv : s.lens.getLast? with
    | none =>
      rw [exec_rep16_of_nothing (List.getLast?_eq_none_iff.mp hv)] at he
      cases he; exact keepsPhaseOrRaises_raise rfl s
    | some v => rw [exec_rep16_of_last hv] at he; cases he; exact keepsPhaseOrRaises_appendLengths v _ s
  | repz17 x | repz18 x => cases he; exact keepsPhaseOrRaises_appendLengths 0 _ s

/-! ## What a transition consumes -/

/-- What was consumed and what waits make up what waited before (R24). -/
def Consumes (s t : State) : Prop :=
  t.bitposIn + t.inq.length = s.bitposIn + s.inq.length ∧ s.bitposIn ≤ t.bitposIn ∧ t.inq <:+ s.inq

theorem Consumes.refl (s : State) : Consumes s s := ⟨rfl, le_rfl, List.suffix_rfl⟩

theorem Consumes.trans {s t u : State} (h : Consumes s t) (k : Consumes t u) : Consumes s u := by
  obtain ⟨hsum, hle, hsuffix⟩ := h
  obtain ⟨ksum, kle, ksuffix⟩ := k
  exact ⟨ksum.trans hsum, hle.trans kle, ksuffix.trans hsuffix⟩

theorem consumes_of_drop {n : Nat} {s t : State} (hn : n ≤ s.inq.length) (hinq : t.inq = s.inq.drop n)
    (hpos : t.bitposIn = s.bitposIn + n) : Consumes s t := by
  refine ⟨?_, by omega, hinq ▸ List.drop_suffix n _⟩
  rw [hinq, hpos, List.length_drop]
  omega

theorem consumes_raise (c : Cause) (s : State) : Consumes s (raise c s) := ⟨rfl, le_rfl, List.suffix_rfl⟩

/-- A move takes nothing from the input, or what the cursor has passed (R230). -/
theorem DecoderMove.consumes {s t : State} (hmove : DecoderMove s t) (hc : s.CursorFits) : Consumes s t := by
  have hcommit : Consumes s (commit s) := consumes_of_drop hc rfl rfl
  have happended (b : Byte) : Consumes s (windowAppend b (commit s)) := by
    rw [windowAppend_frame b (commit s)]
    exact hcommit
  cases hmove with
  | fault c => exact consumes_raise c s
  | matchLength => exact .refl s
  | header | fixedHeader | storedEmpty | storedLength | counts | codeLength | codeLengthTable | lengths
  | headerDone | endBlock => exact hcommit
  | storedByte b | storedLast b | literal b => exact happended b
  | matchCopy length distance =>
    rw [windowCopy_frame distance length (commit s)]
    exact hcommit

/-- A step that is no element faults with a cause that records the position, or consumes bits that are there
(R233, R234, R240, R242, R325). -/
theorem plainStep_raises_or_reads {s t : State} (h : plainStep s = some t) :
    (∃ c, c.hasPos = true ∧ t = raise c s) ∨
      ∃ n, n ≤ (unread s).length ∧ t.inq = s.inq.drop (s.cursor + n) ∧ t.bitposIn = s.bitposIn + (s.cursor + n) ∧
        t.phase = s.phase := by
  unfold plainStep at h
  split at h
  · unfold storedLenStep at h
    split at h
    · next hsecond =>
      have hlen := peekBits_length hsecond
      rw [List.length_drop] at hlen
      dsimp only at h
      split_ifs at h
      · cases h; exact .inl ⟨_, rfl, rfl⟩
      · cases h; exact .inl ⟨_, rfl, rfl⟩
      · cases h; exact .inr ⟨alignInPad s + 32, by omega, rfl, rfl, rfl⟩
      · cases h; exact .inr ⟨alignInPad s + 32, by omega, rfl, rfl, rfl⟩
    · cases h
  · unfold storedCopyStep at h
    split at h
    · cases h
    · next v hv =>
      cases h
      refine .inr ⟨8, peekBits_length hv, ?_⟩
      split <;> simp
  · unfold dynHdrStep at h
    split at h
    · cases h
    · next v hv =>
      dsimp only at h
      split_ifs at h
      · cases h; exact .inl ⟨_, rfl, rfl⟩
      · cases h; exact .inr ⟨14, peekBits_length hv, rfl, rfl, rfl⟩
  · unfold dynClStep at h
    split at h
    · cases h
    · next v hv =>
      dsimp only at h
      split_ifs at h
      · split at h
        · cases h; exact .inl ⟨_, rfl, rfl⟩
        · cases h; exact .inr ⟨3, peekBits_length hv, rfl, rfl, rfl⟩
      · cases h; exact .inr ⟨3, peekBits_length hv, rfl, rfl, rfl⟩
  all_goals cases h

/-- A transition consumes bits of the input and no others (R24, R230). -/
theorem decoderStep_consumes {s t : State} (hc : s.CursorFits) (hs : decoderStep exec s = some (.next t)) :
    Consumes s t := by
  rcases decoderStep_cases hs with ⟨i, u, hf, he, -⟩ | ⟨-, rfl⟩ | ⟨-, hp⟩
  · have hu := fetchElement_cursorFits hc hf
    have hmove := exec_element_next (fetchElement_format hf).1 he
    obtain ⟨n, rfl⟩ := fetchElement_element hf
    exact hmove.consumes hu
  · exact consumes_raise _ s
  · rcases plainStep_raises_or_reads hp with ⟨c, -, rfl⟩ | ⟨n, hn, hinq, hpos, -⟩
    · exact consumes_raise c s
    · rw [length_unread] at hn
      have hfits : s.cursor ≤ s.inq.length := hc
      exact consumes_of_drop (by omega) hinq hpos

/-! ## What a fault leaves -/

/-- A fault stands recorded at the position where the step that raised it began (R325). -/
def FaultRecorded (s : State) : Prop := s.err ≠ none ∧ s.errPos = s.bitposIn ∧ s.AtBoundary

theorem raise_faultRecorded {c : Cause} (h : c.hasPos = true) (s : State) : FaultRecorded (raise c s) :=
  ⟨fun he => (nomatch he), if_pos h, raise_atBoundary c s⟩

/-- A transition keeps the phase or leaves a recorded fault (R325). -/
theorem decoderStep_phase {s t : State} (hs : decoderStep exec s = some (.next t)) :
    t.phase = s.phase ∨ FaultRecorded t := by
  rcases decoderStep_cases hs with ⟨i, u, hf, he, -⟩ | ⟨-, rfl⟩ | ⟨-, hp⟩
  · obtain ⟨n, rfl⟩ := fetchElement_element hf
    rcases exec_element_keepsPhaseOrRaises (fetchElement_format hf).1 he with hphase | ⟨c, hpos, rfl⟩
    · exact .inl hphase
    · exact .inr (raise_faultRecorded hpos _)
  · exact .inr (raise_faultRecorded rfl s)
  · rcases plainStep_raises_or_reads hp with ⟨c, hpos, rfl⟩ | ⟨n, -, -, -, hphase⟩
    · exact .inr (raise_faultRecorded hpos s)
    · exact .inl hphase

/-! ## What a transition produces -/

/-- The bytes `bs` stand in the window, the checksum and the output behind those of `s`, and nothing changes but what
a decompress command writes (R140, R230). -/
def Produces (bs : List Byte) (s t : State) : Prop :=
  Appended bs s t ∧ t.out = s.out ++ bs ∧ t.totalOut = s.totalOut + bs.length ∧ t.trail = s.trail ∧
    DecompressFrame s t

theorem DecompressFrame.trans {s t u : State} (h : DecompressFrame s t) (k : DecompressFrame t u) :
    DecompressFrame s u := by
  simp only [DecompressFrame] at *
  rw [k]
  rw [h]

theorem Produces.trans {as bs : List Byte} {s t u : State} (h : Produces as s t) (k : Produces bs t u) :
    Produces (as ++ bs) s u := by
  obtain ⟨hwin, hout, htotal, htrail, hframe⟩ := h
  obtain ⟨kwin, kout, ktotal, ktrail, kframe⟩ := k
  refine ⟨hwin.trans kwin, ?_, ?_, ktrail.trans htrail, hframe.trans kframe⟩
  · rw [kout, hout, List.append_assoc]
  · rw [ktotal, htotal, List.length_append, Nat.add_assoc]

/-- Nothing produced: only the decoder's own registers, the input and the fault record may differ. -/
abbrev SilentFrame (s t : State) : Prop :=
  t = { s with
    inq := t.inq, bitposIn := t.bitposIn, cursor := t.cursor, pendLen := t.pendLen, dstate := t.dstate
    bfinal := t.bfinal, rem := t.rem, nlen := t.nlen, ndist := t.ndist, ncode := t.ncode, idx := t.idx
    cll := t.cll, lens := t.lens, clt := t.clt, lt := t.lt, dt := t.dt
    totalIn := t.totalIn, phase := t.phase, pending := t.pending, err := t.err, errPos := t.errPos }

theorem SilentFrame.produces {s t : State} (h : SilentFrame s t) : Produces [] s t := by
  rw [h]
  exact ⟨rfl, (List.append_nil _).symm, rfl, rfl, rfl⟩

theorem produces_windowAppendAll (bs : List Byte) {s : State} (hm : s.mode = .decompress) :
    Produces bs s (windowAppendAll bs s) := by
  obtain ⟨hout, htotal⟩ := windowAppendAll_output bs hm
  have hframe := windowAppendAll_frame bs s
  refine ⟨appended_windowAppendAll bs s, hout, htotal, ?_, ?_⟩
  · rw [hframe]
  · simp only [DecompressFrame]
    rw [hframe]

/-- A copy appends as many bytes as it is long, whatever they are (R142). -/
theorem exists_windowCopy_eq (distance length : Nat) (s : State) :
    ∃ bs, windowCopy distance length s = windowAppendAll bs s := by
  induction length generalizing s with
  | zero => exact ⟨[], rfl⟩
  | succ n ih =>
    obtain ⟨bs, hbs⟩ := ih (copyByte distance s)
    exact ⟨_ :: bs, hbs⟩

theorem DecoderMove.produces {s t : State} (hmove : DecoderMove s t) (hm : s.mode = .decompress) :
    ∃ bs, Produces bs s t := by
  have hcommit : Produces [] s (commit s) := SilentFrame.produces rfl
  have happended (bs : List Byte) : Produces bs s (windowAppendAll bs (commit s)) :=
    hcommit.trans (produces_windowAppendAll bs (s := commit s) hm)
  have htaken (b : Byte) : Produces [b] s (storedByteTaken b s) :=
    (happended [b]).trans (t := windowAppend b (commit s)) (SilentFrame.produces rfl)
  cases hmove with
  | fault | header | fixedHeader | storedEmpty | storedLength | counts | codeLength | codeLengthTable | lengths
  | headerDone | matchLength | endBlock => exact ⟨[], SilentFrame.produces rfl⟩
  | storedByte b => exact ⟨[b], htaken b⟩
  | storedLast b => exact ⟨[b], (htaken b).trans (bs := []) (SilentFrame.produces rfl)⟩
  | literal b => exact ⟨[b], happended [b]⟩
  | matchCopy length distance =>
    obtain ⟨bs, hbs⟩ := exists_windowCopy_eq distance length (commit s)
    exact ⟨bs, hbs ▸ happended bs⟩

theorem decoderStep_produces {s t : State} (hm : s.mode = .decompress) (hs : decoderStep exec s = some (.next t)) :
    ∃ bs, Produces bs s t := by
  obtain ⟨n, hmove⟩ := decoderStep_move hs
  obtain ⟨bs, hbs⟩ := hmove.produces (s := advance n s) hm
  exact ⟨bs, Produces.trans (as := []) (t := advance n s) (SilentFrame.produces rfl) hbs⟩

/-! ## Runs -/

/-- What every transition does to the state, a run does (R230). -/
theorem RunsTo.induction {R : State → State → Prop} (refl : ∀ s, R s s)
    (trans : ∀ {s t u}, R s t → R t u → R s u)
    (step : ∀ {s t}, s.CursorFits → decoding s = true → decoderStep exec s = some (.next t) → R s t)
    {s t : State} (hrun : RunsTo s t) (h : s.Ready) : R s t := by
  induction hrun with
  | stop => exact refl _
  | hold _ hold =>
    rw [rollback_of_boundary (Ready.atBoundary_of_hold h hold)]
    exact refl _
  | step hdec hs _ ih => exact trans (step h.1 hdec hs) (ih (decoderStep_ready h.1 hs))

theorem RunsTo.consumes {s t : State} (hrun : RunsTo s t) (h : s.Ready) : Consumes s t :=
  hrun.induction .refl .trans (fun hc _ hs => decoderStep_consumes hc hs) h

theorem RunsTo.produces {s t : State} (hrun : RunsTo s t) (h : s.Ready) : ∃ bs, Produces bs s t := by
  refine hrun.induction (R := fun s t => ∃ bs, Produces bs s t) (fun s => ⟨[], SilentFrame.produces rfl⟩) ?_ ?_ h
  · rintro s t u ⟨as, has⟩ ⟨bs, hbs⟩
    exact ⟨as ++ bs, has.trans hbs⟩
  · intro s t _ hdec hs
    exact decoderStep_produces (decoding_iff.mp hdec).1 hs

theorem RunsTo.ready {s t : State} (hrun : RunsTo s t) (h : s.Ready) : t.Ready := by
  induction hrun with
  | stop => exact h
  | hold _ hold => rwa [rollback_of_boundary (Ready.atBoundary_of_hold h hold)]
  | step _ hs _ ih => exact ih (decoderStep_ready h.1 hs)

/-- A run of an open stream that ends in FAULT ends with the fault recorded (R325). -/
theorem RunsTo.faultRecorded {s t : State} (hrun : RunsTo s t) (hs : s.phase ≠ .fault) (ht : t.phase = .fault) :
    FaultRecorded t := by
  induction hrun with
  | stop | hold => exact absurd ht hs
  | @step s t u hdec hstep hrun ih =>
    by_cases hphase : t.phase = .fault
    · have hend : u = t := by
        cases hrun with
        | stop => rfl
        | hold hdec' | step hdec' => rw [decoding_of_fault hphase] at hdec'; cases hdec'
      rw [hend]
      exact (decoderStep_phase hstep).resolve_left (fun heq => hs (heq ▸ hphase))
    · exact ih hphase ht

/-- Behind the end of the stream no transition is possible (R230). -/
theorem decoderStep_of_done {s : State} (hd : s.dstate = .done) : decoderStep exec s = none := by
  have hf : fetchElement s = none := by simp only [fetchElement, hd]
  have hp : plainStep s = none := by simp only [plainStep, hd]
  rw [decoderStep_of_plain hf, hp]
  rfl

/-! ## FEED -/

/-- How `Decode()` can leave an open stream (R230, R325): waiting for bits, at the end of the stream, or in a fault. -/
inductive DecodeEnd (t : State) : Prop where
  | waiting (hp : t.phase = .active) (hd : t.dstate ≠ .done) (hold : decoderStep exec t = none)
  | ended (hp : t.phase = .active) (hd : t.dstate = .done)
  | faulted (hp : t.phase = .fault) (herr : t.err ≠ none) (hpos : t.errPos = t.bitposIn)

/-- A run of an open stream ends at a step boundary, in one of the three ways (R230). -/
theorem RunsTo.decodeEnd {s t : State} (hrun : RunsTo s t) (h : s.Ready) (hp : s.phase = .active)
    (hm : s.mode = .decompress) : t.AtBoundary ∧ DecodeEnd t := by
  rcases hrun.phase with hpt | hpt
  · have hpt' : t.phase = .active := hpt.trans hp
    by_cases hd : t.dstate = .done
    · exact ⟨Ready.atBoundary_of_hold (hrun.ready h) (decoderStep_of_done hd), .ended hpt' hd⟩
    · obtain ⟨hb, hold⟩ := (hrun.ends h).2 (decoding_iff.mpr ⟨hrun.mode.trans hm, hpt', hd⟩)
      exact ⟨hb, .waiting hpt' hd hold⟩
  · obtain ⟨herr, hpos, hb⟩ := hrun.faultRecorded (by rw [hp]; decide) hpt
    exact ⟨hb, .faulted hpt herr hpos⟩

/-- The end of FEED writes `PHASE`, `TRAIL` and `PENDING` (R290, R299). -/
theorem endCommand_settleDecode {t : State} (hm : t.mode = .decompress) :
    endCommand (settleDecode t) = { t with
      phase := (settleDecode t).phase, trail := (settleDecode t).trail, pending := !t.inq.isEmpty } := by
  unfold settleDecode endCommand pendingNow
  split <;> simp only [hm]

/-- The next step still holds once the command has set `PENDING` (R128, R290). -/
theorem decoderStep_endCommand_of_hold {s : State} (hc : s.CursorFits) (hT : s.TablesInv)
    (hold : decoderStep exec s = none) : decoderStep execElement (endCommand s) = none := by
  have hsame : endCommand s = withBits [] s.totalIn (pendingNow s) s := by
    rw [withBits, List.append_nil]
    rfl
  rw [decoderStep_execElement, hsame]
  exact decoderStep_accounts s.totalIn (pendingNow s) hc hT hold

/-- `PHASE` and `TRAIL` at the end of FEED tell how `Decode()` has ended (R295, R299, R325). -/
theorem settled_of_decodeEnd {t u : State} (hend : DecodeEnd t) (hc : t.CursorFits) (hT : t.TablesInv)
    (hu : u = endCommand (settleDecode t)) :
    (u.phase = .active ∨ u.phase = .done ∨ u.phase = .fault) ∧
      (u.phase = .active → u.dstate ≠ .done ∧ decoderStep execElement u = none ∧ u.trail = t.trail) ∧
      (u.phase = .done → u.dstate = .done ∧ u.trail = (t.trail || decide (8 ≤ u.inq.length))) ∧
      (u.phase = .fault → u.err ≠ none ∧ u.errPos = u.bitposIn ∧ u.trail = t.trail) := by
  cases hend with
  | waiting hp hd hold =>
    rw [settleDecode_of_open (.inr hd)] at hu
    have hpu : u.phase = .active := by rw [hu]; exact hp
    have hwaits : u.dstate ≠ .done ∧ decoderStep execElement u = none ∧ u.trail = t.trail := by
      rw [hu]
      exact ⟨hd, decoderStep_endCommand_of_hold hc hT hold, rfl⟩
    exact ⟨.inl hpu, fun _ => hwaits, fun h => (nomatch hpu.symm.trans h), fun h => (nomatch hpu.symm.trans h)⟩
  | ended hp hd =>
    rw [settleDecode_of_done hp hd] at hu
    have hpu : u.phase = .done := by rw [hu]; rfl
    have hended : u.dstate = .done ∧ u.trail = (t.trail || decide (8 ≤ u.inq.length)) := by
      rw [hu]
      exact ⟨hd, rfl⟩
    exact ⟨.inr (.inl hpu), fun h => (nomatch hpu.symm.trans h), fun _ => hended,
      fun h => (nomatch hpu.symm.trans h)⟩
  | faulted hp herr hpos =>
    rw [settleDecode_of_open (.inl (by rw [hp]; decide))] at hu
    have hpu : u.phase = .fault := by rw [hu]; exact hp
    have hfaults : u.err ≠ none ∧ u.errPos = u.bitposIn ∧ u.trail = t.trail := by
      rw [hu]
      exact ⟨herr, hpos, rfl⟩
    exact ⟨.inr (.inr hpu), fun h => (nomatch hpu.symm.trans h), fun h => (nomatch hpu.symm.trans h),
      fun _ => hfaults⟩

/-- Settles O18: `Decode()` makes a run, each transition of which accounts for the bits it takes and the bytes it
produces, and the run ends at a boundary, waiting, at the end of the stream, or in a recorded fault. -/
theorem feedDecompressRunsToHold : Obligations.FeedDecompressRunsToHold := by
  intro chunk s hp hm hb hT hH hsorted hpos hhave
  have hready : (acceptInput chunk s).Ready := ready_of_boundary (s := acceptInput chunk s) hb
  have hfit : (acceptInput chunk s).TablesFit := ⟨hT, hH.1, hH.2.1⟩
  obtain ⟨t, hrun⟩ := exists_runsTo hfit
  have hmt : t.mode = .decompress := hrun.mode.trans hm
  obtain ⟨hbt, hend⟩ := hrun.decodeEnd hready hp hm
  obtain ⟨produced, hwin, hout, htotal, htrail, hframe⟩ := hrun.produces hready
  obtain ⟨hsum, hle, hsuffix⟩ := hrun.consumes hready
  obtain ⟨hphase, hactive, hdone, hfault⟩ := settled_of_decodeEnd hend (cursorFits_of_boundary hbt)
    (hrun.tablesFit hfit).1 rfl
  have hlength : (acceptInput chunk s).inq.length = s.inq.length + 8 * chunk.length := by
    rw [acceptInput_inq, List.length_append, length_bytesBits]
  have hheld : WindowHolds produced s t := hwin.windowHolds (s := acceptInput chunk s) hsorted hpos hhave
  have hframe' : DecompressFrame s t := DecompressFrame.trans (t := acceptInput chunk s) rfl hframe
  rw [htrail] at hactive hdone hfault
  refine ⟨endCommand (settleDecode t), produced, exec_feed_decompress chunk hp hm hrun, ?_⟩
  rw [endCommand_settleDecode hmt] at hphase hactive hdone hfault ⊢
  refine ⟨hbt, hphase, hactive, hdone, hfault, ?_, hle, hsuffix, hrun.totalIn, rfl, hout, htotal, hheld,
    hframe'.trans rfl⟩
  rw [hlength] at hsum
  exact hsum.trans (Nat.add_assoc _ _ _).symm

end Sys2Proof.Machine

/-! PROOFS. The commands of an open compress stream (spec 42_matcher R158, R160, 47_commands R295 to R297): what
accepting a token does, what a run of tokens takes, and how FLUSH and FINISH end the output. -/

namespace Sys2Proof.Machine

/-! ## Accepting one token -/

/-- The insertions of an accepted token, position by position behind the end of the history (R153). -/
theorem insertRange_wtotal (n : Nat) (s : State) :
    insertRange s.wtotal n s =
      ((List.range n).filter fun k => k + 2 < s.la.length).foldl (fun v k => insertPos (s.wtotal + k) v) s := by
  have hknown : (fun k => decide (k + 2 < s.wtotal + s.la.length)) ∘ (s.wtotal + ·) =
      fun k => decide (k + 2 < s.la.length) := by
    funext k
    exact decide_eq_decide.mpr (by simp only; omega)
  rw [insertRange_eq_foldl, List.range'_eq_map_range, List.filter_map, hknown, List.foldl_map]

/-- Accepting a token short of the test whether it closes the block, field by field (R158): in compress mode nothing is
produced. -/
theorem takeToken_eq {s : State} (hm : s.mode = .compress) :
    takeToken s =
      { s with
        tok := s.tok ++ [nextToken s]
        blkBytes := s.blkBytes + tokenSpan (nextToken s)
        la := s.la.drop (tokenSpan (nextToken s))
        head := (insertRange s.wtotal (tokenSpan (nextToken s)) s).head
        prev := (insertRange s.wtotal (tokenSpan (nextToken s)) s).prev
        win := (takeToken s).win, wpos := (takeToken s).wpos, whave := (takeToken s).whave
        wtotal := (takeToken s).wtotal, s1 := (takeToken s).s1, s2 := (takeToken s).s2 } := by
  have hinsert := insertRange_frame s.wtotal (tokenSpan (nextToken s)) s
  unfold takeToken
  rw [insertRange_tok]
  generalize insertRange s.wtotal (tokenSpan (nextToken s)) s = u at hinsert
  have hmode : u.mode ≠ .decompress := by
    rw [hinsert]
    exact fun hd => nomatch hm.symm.trans hd
  have hframe := windowAppendAll_frame (u.la.take (tokenSpan (nextToken s))) { u with tok := s.tok ++ [nextToken s] }
  obtain ⟨hout, htotal⟩ := windowAppendAll_noOutput (s := { u with tok := s.tok ++ [nextToken s] })
    (u.la.take (tokenSpan (nextToken s))) hmode
  simp only [consumeToken]
  rw [hframe, hout, htotal, hinsert]

theorem windowPart_insertRange (p n : Nat) (s : State) : windowPart (insertRange p n s) = windowPart s := by
  rw [insertRange_frame]
  rfl

/-- The bytes of an accepted token go to the window and the checksum (R158). -/
theorem appended_takeToken (s : State) : Appended (s.la.take (tokenSpan (nextToken s))) s (takeToken s) := by
  unfold takeToken
  rw [insertRange_tok]
  have happended := appended_windowAppendAll (s.la.take (tokenSpan (nextToken s)))
    { insertRange s.wtotal (tokenSpan (nextToken s)) s with tok := s.tok ++ [nextToken s] }
  have hla := insertRange_la s.wtotal (tokenSpan (nextToken s)) s
  have hinserted : windowPart { insertRange s.wtotal (tokenSpan (nextToken s)) s with tok := s.tok ++ [nextToken s] } =
      windowPart s := windowPart_insertRange _ _ s
  unfold Appended at happended ⊢
  rw [← hinserted, ← happended, ← hla]
  rfl

/-! ## What the output gains -/

/-- Output bytes are only added, and the counter counts them (R34, R60). -/
def OutputGrows (s t : State) : Prop :=
  s.out <+: t.out ∧ t.totalOut + s.out.length = s.totalOut + t.out.length

theorem OutputGrows.of_same {s t : State} (hout : t.out = s.out) (htotal : t.totalOut = s.totalOut) :
    OutputGrows s t := by
  rw [OutputGrows, hout, htotal]
  exact ⟨List.prefix_rfl, rfl⟩

theorem OutputGrows.trans {s t u : State} (h : OutputGrows s t) (k : OutputGrows t u) : OutputGrows s u := by
  obtain ⟨hprefix, hbalance⟩ := h
  obtain ⟨kprefix, kbalance⟩ := k
  exact ⟨hprefix.trans kprefix, by omega⟩

theorem putBitList_outputGrows (bits : List Bool) (s : State) : OutputGrows s (putBitList bits s) :=
  ⟨putBitList_out_prefix bits s, putBitList_totalOut_balance bits s⟩

theorem emitBlock_outputGrows (final : Bool) (s : State) : OutputGrows s (emitBlock final s) :=
  putBitList_outputGrows (blockBits final s) s

/-! ## A run of tokens -/

/-- Only what the tokeniser writes may differ (R22, R160): the lookahead, the window, the checksum, the matcher, the
tokens and the output side. -/
abbrev TokenFrame (s t : State) : Prop :=
  t = { s with
    la := t.la, win := t.win, wpos := t.wpos, whave := t.whave, wtotal := t.wtotal, s1 := t.s1, s2 := t.s2
    head := t.head, prev := t.prev, tok := t.tok, blkBytes := t.blkBytes, estate := t.estate, oacc := t.oacc
    onb := t.onb, bitposOut := t.bitposOut, out := t.out, totalOut := t.totalOut }

theorem TokenFrame.trans {s t u : State} (h : TokenFrame s t) (k : TokenFrame t u) : TokenFrame s u := by
  simp only [TokenFrame] at *
  rw [k]
  rw [h]

theorem TokenFrame.compressFrame {s t : State} (h : TokenFrame s t) : CompressFrame s t := by
  simp only [CompressFrame]
  rw [h]

/-- Tokens have taken the first `n` waiting bytes into the window and the checksum (R158, R160). -/
def TakesBytes (n : Nat) (s t : State) : Prop :=
  n ≤ s.la.length ∧ t.la = s.la.drop n ∧ Appended (s.la.take n) s t ∧ OutputGrows s t ∧ TokenFrame s t

theorem TakesBytes.refl (s : State) : TakesBytes 0 s s := ⟨Nat.zero_le _, rfl, .refl s, .of_same rfl rfl, rfl⟩

theorem TakesBytes.trans {n m : Nat} {s t u : State} (h : TakesBytes n s t) (k : TakesBytes m t u) :
    TakesBytes (n + m) s u := by
  obtain ⟨hle, hla, hwin, hout, hframe⟩ := h
  obtain ⟨kle, kla, kwin, kout, kframe⟩ := k
  rw [hla] at kle kla kwin
  rw [List.length_drop] at kle
  refine ⟨by omega, ?_, ?_, hout.trans kout, hframe.trans kframe⟩
  · rw [kla, List.drop_drop]
  · rw [List.take_add]
    exact hwin.trans kwin

theorem takeToken_takesBytes {s : State} (hm : s.mode = .compress) (hla : 0 < s.la.length) :
    TakesBytes (tokenSpan (nextToken s)) s (takeToken s) := by
  have hfields := takeToken_eq hm
  refine ⟨(tokenSpan_nextToken hla).2.1, ?_, appended_takeToken s, ?_, ?_⟩
  · rw [hfields]
  · exact .of_same (by rw [hfields]) (by rw [hfields])
  · simp only [TokenFrame]
    rw [hfields]

theorem emitBlock_takesBytes (s : State) : TakesBytes 0 s (emitBlock false s) := by
  refine ⟨Nat.zero_le _, rfl, .of_windowPart_eq rfl, emitBlock_outputGrows false s, ?_⟩
  simp only [TokenFrame]
  rw [emitBlock_frame, Bool.or_false]

theorem acceptToken_takesBytes {s : State} (hm : s.mode = .compress) (hla : 0 < s.la.length) :
    TakesBytes (tokenSpan (nextToken s)) s (acceptToken s) := by
  rw [acceptToken_eq]
  split
  · exact (takeToken_takesBytes hm hla).trans (emitBlock_takesBytes _)
  · exact takeToken_takesBytes hm hla

theorem tokenise_takesBytes (finishing : Bool) {s : State} (hm : s.mode = .compress) :
    ∃ n, TakesBytes n s (tokenise finishing s) := by
  refine tokenise_induction (P := fun t => ∃ n, TakesBytes n s t) ?_ finishing hm ⟨0, .refl s⟩
  rintro t hmt hla ⟨n, ht⟩
  exact ⟨_, ht.trans (acceptToken_takesBytes hmt hla)⟩

theorem takeToken_sinkInv {s : State} (hm : s.mode = .compress) (h : s.SinkInv) : (takeToken s).SinkInv := by
  obtain ⟨-, hacc, honb, hpos⟩ := takeToken_output hm
  unfold State.SinkInv
  rwa [hacc, honb, hpos]

theorem tokenise_sinkInv (finishing : Bool) {s : State} (hm : s.mode = .compress) (h : s.SinkInv) :
    (tokenise finishing s).SinkInv := by
  refine tokenise_induction (P := State.SinkInv) ?_ finishing hm h
  intro t hmt _ ht
  rw [acceptToken_eq]
  split
  · exact emitBlock_sinkInv false (takeToken_sinkInv hmt ht)
  · exact takeToken_sinkInv hmt ht

/-! ## FEED -/

theorem endCommand_of_compress {s : State} (hm : s.mode = .compress) :
    endCommand s = { s with pending := !s.la.isEmpty } := by
  simp only [endCommand, pendingNow, hm]

/-- FEED accepts tokens while 260 bytes wait, and takes their bytes (R160, R295). -/
theorem exec_feed_tokenises (chunk : List Byte) {s fed : State} (hp : s.phase = .active) (hm : s.mode = .compress)
    (hfed : fed = { s with la := s.la ++ chunk, totalIn := s.totalIn + chunk.length }) :
    ∃ k n, exec (.feed chunk) s = .next (endCommand (Nat.iterate acceptToken k fed)) ∧
      (∀ j < k, 260 ≤ (Nat.iterate acceptToken j fed).la.length) ∧
      (Nat.iterate acceptToken k fed).la.length < 260 ∧ TakesBytes n fed (Nat.iterate acceptToken k fed) := by
  have hmode : fed.mode = .compress := by rw [hfed]; exact hm
  obtain ⟨k, heq, hbefore, -⟩ := tokenise_iterate false fed
  obtain ⟨n, htakes⟩ := tokenise_takesBytes false hmode
  have hshort := tokenise_la_length_lt fed
  have hexec : exec (.feed chunk) s = .next (endCommand (tokenise false fed)) := by
    rw [exec_feed_compress chunk hp hm, hfed]
    rfl
  rw [heq] at htakes hshort hexec
  exact ⟨k, n, hexec, fun j hj => (hbefore j hj).2 rfl, hshort, htakes⟩

/-- Settles O17: FEED takes bytes token by token; one token is taken field by field, and a block past the threshold
closed. -/
theorem feedCompressTokenises : Obligations.FeedCompressTokenises := by
  refine ⟨fun chunk s hp hm hsorted hpos hhave fed hfed => ?_, fun s hm hla hsorted hpos hhave token span inserted
    htoken hspan hinserted => ?_⟩
  · obtain ⟨k, n, hexec, hbefore, hshort, htakes⟩ := exec_feed_tokenises chunk hp hm hfed
    have hmode : (Nat.iterate acceptToken k fed).mode = .compress := by
      obtain ⟨-, -, -, -, hframe⟩ := htakes
      rw [hframe, hfed]
      exact hm
    rw [endCommand_of_compress hmode] at hexec
    refine ⟨_, n, k, hexec, ?_⟩
    generalize Nat.iterate acceptToken k fed = v at hshort htakes ⊢
    obtain ⟨hn, hla, hwin, ⟨hprefix, hbalance⟩, hframe⟩ := htakes
    subst hfed
    have hframe' : CompressFrame s v :=
      CompressFrame.trans (t := { s with la := s.la ++ chunk, totalIn := s.totalIn + chunk.length }) rfl
        hframe.compressFrame
    refine ⟨rfl, hbefore, hn, hla, Nat.le_of_lt_succ hshort, ?_, ?_, rfl, hprefix, hbalance, ?_, ?_,
      hframe'.trans rfl⟩
    · exact Appended.windowHolds (s := { s with la := s.la ++ chunk, totalIn := s.totalIn + chunk.length }) hwin
        hsorted hpos hhave
    all_goals rw [hframe]
  · have htoken' : token = nextToken s := htoken
    have hspan' : span = tokenSpan (nextToken s) := hspan.trans (by rw [htoken']; cases nextToken s <;> rfl)
    have hinserted' : inserted = insertRange s.wtotal span s := hinserted.trans (insertRange_wtotal span s).symm
    subst htoken' hinserted'
    obtain ⟨hpos1, hle, -⟩ := tokenSpan_nextToken hla
    have hfields := takeToken_eq hm
    have hclose := acceptToken_eq s
    have hwin := (appended_takeToken s).windowHolds hsorted hpos hhave
    rw [← hspan'] at hpos1 hle hfields hwin
    exact ⟨hpos1, hle, takeToken s, hclose, hwin, hfields⟩

/-! ## FLUSH and FINISH -/

/-- With no input to come the tokeniser takes every waiting byte (R160). -/
theorem tokenise_finishing {s : State} (hm : s.mode = .compress) :
    (tokenise true s).la = [] ∧ TakesBytes s.la.length s (tokenise true s) := by
  have hla : (tokenise true s).la = [] := by
    obtain ⟨k, heq, -, hend⟩ := tokenise_iterate true s
    rw [heq]
    exact hend.resolve_right fun ⟨hfalse, _⟩ => nomatch hfalse
  obtain ⟨n, htakes⟩ := tokenise_takesBytes true hm
  obtain ⟨hle, hdrop, -⟩ := id htakes
  have hn : n = s.la.length := by
    have hlength := congrArg List.length hdrop
    rw [hla, List.length_nil, List.length_drop] at hlength
    omega
  exact ⟨hla, hn ▸ htakes⟩

/-- After the tokeniser FLUSH closes the block, if it holds a token (R296). -/
def closeOpenBlock (s : State) : State := if 0 < s.ntok then emitBlock false s else s

theorem closeOpenBlock_takesBytes (s : State) : TakesBytes 0 s (closeOpenBlock s) := by
  unfold closeOpenBlock
  split
  · exact emitBlock_takesBytes s
  · exact .refl s

theorem closeOpenBlock_tok (s : State) : (closeOpenBlock s).tok = [] := by
  unfold closeOpenBlock
  split
  · rfl
  · next h => exact List.length_eq_zero_iff.mp (Nat.eq_zero_of_not_pos h)

theorem closeOpenBlock_sinkInv {s : State} (h : s.SinkInv) : (closeOpenBlock s).SinkInv := by
  unfold closeOpenBlock
  split
  · exact emitBlock_sinkInv false h
  · exact h

/-- Behind a byte boundary the length fields of the empty stored block are its four bytes (R73, R296). -/
theorem syncMarker_out {s : State} (h : s.SinkInv) :
    ∃ emitted, (syncMarker s).out = s.out ++ emitted ++ [0x00, 0x00, 0xFF, 0xFF] ∧ (syncMarker s).onb = 0 ∧
      (syncMarker s).oacc = 0 ∧ (syncMarker s).bitposOut % 8 = 0 := by
  have hheader : (putBits 0 2 (putBits 0 1 s)).SinkInv := putBitList_sinkInv _ (putBitList_sinkInv _ h)
  obtain ⟨honb, hacc, hpos, -⟩ := alignOutPadsWithZeros _ hheader
  obtain ⟨emitted, hemitted⟩ : s.out <+: (alignOut (putBits 0 2 (putBits 0 1 s))).out :=
    ((putBitList_out_prefix _ _).trans (putBitList_out_prefix _ _)).trans (putBitList_out_prefix _ _)
  have hfields : syncMarker s =
      putBitList (bitsLSB 0x0000 16 ++ bitsLSB 0xFFFF 16) (alignOut (putBits 0 2 (putBits 0 1 s))) :=
    (putBitList_append _ _ _).symm
  generalize alignOut (putBits 0 2 (putBits 0 1 s)) = u at honb hacc hpos hemitted hfields
  rw [hfields, putBitList_out, putBitList_onb, putBitList_oacc, putBitList_bitposOut, honb, hacc, ← hemitted]
  refine ⟨emitted, rfl, rfl, rfl, ?_⟩
  rw [List.length_append, length_bitsLSB, length_bitsLSB]
  omega

/-- The marker is one run of bits (R296). -/
theorem syncMarker_eq_putBitList (s : State) : ∃ bits, syncMarker s = putBitList bits s := by
  simp only [syncMarker, alignOut, putBits, ← putBitList_append]
  exact ⟨_, rfl⟩

/-- The body of FLUSH takes every waiting byte, closes the block and writes the marker (R296). -/
theorem flushCompress_eq (s : State) : flushCompress s = syncMarker (closeOpenBlock (tokenise true s)) := rfl

theorem exec_flush_compress {s : State} (hp : s.phase = .active) (hm : s.mode = .compress) :
    exec .flush s = .next (endCommand (flushCompress s)) := by
  show execFlush s = _
  simp only [execFlush, hp, hm]

/-- What bits behind a run of tokens leave of it: the window, the tokens and the lookahead (R120). -/
theorem TakesBytes.putBitList {n : Nat} {s t : State} (bits : List Bool) (h : TakesBytes n s t) :
    TakesBytes n s (putBitList bits t) := by
  have hbits : TakesBytes 0 t (Machine.putBitList bits t) :=
    ⟨Nat.zero_le _, rfl, .of_windowPart_eq rfl, putBitList_outputGrows bits t, rfl⟩
  exact h.trans hbits

/-- Settles O20: the tokeniser leaves nothing waiting, the block is closed, and the marker ends on a byte boundary. -/
theorem flushForcesOutputOut : Obligations.FlushForcesOutputOut := by
  intro s hp hm hsink hsorted hpos hhave
  obtain ⟨hla, htaken⟩ := tokenise_finishing hm
  have hclosed := htaken.trans (closeOpenBlock_takesBytes (tokenise true s))
  have htok := closeOpenBlock_tok (tokenise true s)
  obtain ⟨emitted, hmarker, honb, hacc, halign⟩ :=
    syncMarker_out (closeOpenBlock_sinkInv (tokenise_sinkInv true hm hsink))
  obtain ⟨bits, hbits⟩ := syncMarker_eq_putBitList (closeOpenBlock (tokenise true s))
  have hflushed := hclosed.putBitList bits
  have htok' : (syncMarker (closeOpenBlock (tokenise true s))).tok = [] := by rw [hbits]; exact htok
  obtain ⟨more, hmore⟩ : s.out <+: (closeOpenBlock (tokenise true s)).out := by
    obtain ⟨-, -, -, ⟨hprefix, -⟩, -⟩ := hclosed
    exact hprefix
  rw [← hbits] at hflushed
  rw [← hmore] at hmarker
  have hexec := exec_flush_compress hp hm
  rw [flushCompress_eq] at hexec
  generalize syncMarker (closeOpenBlock (tokenise true s)) = t at hexec hmarker honb hacc halign hflushed htok'
  obtain ⟨-, hrest, hwin, ⟨-, hbalance⟩, hframe⟩ := hflushed
  have hla' : t.la = [] := by rw [hrest]; exact List.drop_length
  rw [Nat.add_zero, List.take_length] at hwin
  have hmode : t.mode = .compress := by rw [hframe]; exact hm
  rw [endCommand_of_compress hmode] at hexec
  refine ⟨_, more ++ emitted, hexec, hla', htok', honb, hacc, halign, ?_, hbalance,
    hwin.windowHolds hsorted hpos hhave, ?_, ?_, ?_, ?_, hframe.compressFrame.trans rfl⟩
  · rw [hmarker, ← List.append_assoc]
  · rw [hframe]
    exact hp
  · simp only [hla', List.isEmpty_nil, Bool.not_true]
  · rw [hframe]
  · rw [hframe]

/-! ## FINISH -/

theorem exec_finish_compress {s : State} (hp : s.phase = .active) (hm : s.mode = .compress) :
    exec .finish s = .next (endCommand (finishCompress s)) := by
  show execFinish s = _
  simp only [execFinish, hp, hm]

/-- The final block and its padding (R214, R215, R297). -/
def writeFinal (s : State) : State := alignOut (emitBlock true s)

theorem finishCompress_eq (s : State) :
    finishCompress s = { writeFinal (tokenise true s) with phase := .finished } := rfl

/-- The final block empties the token buffer and leaves window and lookahead alone (R202, R214). -/
theorem writeFinal_fields (s : State) :
    (writeFinal s).tok = [] ∧ (writeFinal s).blkBytes = 0 ∧ (writeFinal s).estate = .accumulating ∧
      (writeFinal s).finalSent = true ∧ (writeFinal s).la = s.la ∧ (writeFinal s).totalIn = s.totalIn ∧
      Appended [] s (writeFinal s) :=
  ⟨rfl, rfl, rfl, Bool.or_true _, rfl, rfl, .of_windowPart_eq rfl⟩

/-- The padding ends the stream on a byte boundary (R215). -/
theorem writeFinal_aligned {s : State} (h : s.SinkInv) :
    (writeFinal s).onb = 0 ∧ (writeFinal s).oacc = 0 ∧ (writeFinal s).bitposOut % 8 = 0 := by
  obtain ⟨honb, hacc, halign, -⟩ := alignOutPadsWithZeros _ (emitBlock_sinkInv true h)
  exact ⟨honb, hacc, halign⟩

theorem writeFinal_outputGrows (s : State) : OutputGrows s (writeFinal s) :=
  (emitBlock_outputGrows true s).trans (putBitList_outputGrows _ _)

theorem writeFinal_compressFrame (s : State) : CompressFrame s (writeFinal s) :=
  (emitBlock_compressFrame true s).trans (t := emitBlock true s) rfl

/-- Settles O21: the tokeniser leaves nothing waiting, and the final block is padded to a byte boundary. -/
theorem finishCompressClosesStream : Obligations.FinishCompressClosesStream := by
  intro s hp hm hsink hsorted hpos hhave
  obtain ⟨hla, -, -, hwin, hgrows, hframe⟩ := tokenise_finishing hm
  obtain ⟨honb, hacc, halign⟩ := writeFinal_aligned (tokenise_sinkInv true hm hsink)
  obtain ⟨htok, hblk, hstate, hfinal, hla', htotal, hsame⟩ := writeFinal_fields (tokenise true s)
  have hwin' := (hwin.trans hsame).windowHolds hsorted hpos hhave
  rw [List.append_nil, List.take_length] at hwin'
  obtain ⟨hprefix, hbalance⟩ := hgrows.trans (writeFinal_outputGrows (tokenise true s))
  have hframe' := hframe.compressFrame.trans (writeFinal_compressFrame (tokenise true s))
  have htotal' : (writeFinal (tokenise true s)).totalIn = s.totalIn := by rw [htotal, hframe]
  rw [hla] at hla'
  have hmode : (writeFinal (tokenise true s)).mode = .compress := by rw [hframe']; exact hm
  have hexec := exec_finish_compress hp hm
  rw [finishCompress_eq] at hexec
  generalize writeFinal (tokenise true s) = t at *
  rw [endCommand_of_compress (s := { t with phase := .finished }) hmode] at hexec
  refine ⟨_, hexec, hla', htok, hblk, hstate, hfinal, honb, hacc, halign, hprefix, hbalance, hwin', rfl, ?_, htotal',
    hframe'.trans rfl⟩
  simp only [hla', List.isEmpty_nil, Bool.not_true]

end Sys2Proof.Machine

/-! PROOFS. The commands that open a stream, the commands at the end of one, and the refused ones (spec 47_commands R290
to R302). -/

namespace Sys2Proof.Machine

/-! ## RESET, CINIT, DINIT -/

/-- Settles O14: `PENDING` is 0 in the reset state, so the end of the command changes nothing of it. -/
theorem resetRestoresResetState : Obligations.ResetRestoresResetState := fun _ => ⟨rfl, rfl⟩

theorem exec_cinit_of_legal {s : State} (h : s.level.toNat ≤ 9) :
    exec .cinit s = .next (endCommand
      { openStream .compress s with effort := s.params.effortTable.getD s.level.toNat 0 }) := by
  have hlegal : ¬ levelMax < s.level.toNat := Nat.not_lt.mpr h
  show execCinit s = _
  rw [execCinit, if_neg hlegal]

theorem exec_cinit_of_illegal {s : State} (h : 9 < s.level.toNat) :
    exec .cinit s = .next (endCommand (raise .invalidLevel (openStream .compress s))) := by
  have hillegal : levelMax < s.level.toNat := h
  show execCinit s = _
  rw [execCinit, if_pos hillegal]

/-- Settles O15: on either side of the level test the opened stream is written out. -/
theorem cinitOpensCompressStream : Obligations.CinitOpensCompressStream := by
  refine fun s => ⟨fun h => ?_, fun h => ?_⟩
  · rw [exec_cinit_of_legal h]
    rfl
  · rw [exec_cinit_of_illegal h]
    rfl

/-- Settles O16: the opened stream has no input waiting, so `PENDING` stays 0. -/
theorem dinitOpensDecompressStream : Obligations.DinitOpensDecompressStream := fun _ => rfl

/-! ## The commands of a decompress stream that has ended -/

theorem endCommand_of_decompress {s : State} (hm : s.mode = .decompress) :
    endCommand s = { s with pending := !s.inq.isEmpty } := by
  simp only [endCommand, pendingNow, hm]

theorem exec_feed_done (chunk : List Byte) {s : State} (hp : s.phase = .done) :
    exec (.feed chunk) s = .next (endCommand (feedDone chunk s)) := by
  show execFeed chunk s = _
  simp only [execFeed, hp]

theorem exec_flush_decompress {s : State} (hm : s.mode = .decompress) (hp : s.phase = .active ∨ s.phase = .done) :
    exec .flush s = .next (endCommand s) := by
  show execFlush s = _
  rcases hp with hp | hp
  · simp only [execFlush, hp, hm]
  · simp only [execFlush, hp]

/-- Settles O19: neither command does more than its body and the end of the command. -/
theorem inputAfterEndIsDiscarded : Obligations.InputAfterEndIsDiscarded := by
  refine fun chunk s hm => ⟨fun hp => ?_, fun hp => ?_⟩
  · rw [exec_feed_done chunk hp, endCommand_of_decompress (s := feedDone chunk s) hm]
    rfl
  · rw [exec_flush_decompress hm hp, endCommand_of_decompress hm]

theorem exec_finish_truncated {s : State} (hm : s.mode = .decompress) (hp : s.phase = .active) :
    exec .finish s = .next (endCommand (raise .inputTooShort s)) := by
  show execFinish s = _
  simp only [execFinish, hp, hm]

theorem exec_finish_done {s : State} (hp : s.phase = .done) :
    exec .finish s = .next (endCommand (finishDone s)) := by
  show execFinish s = _
  simp only [execFinish, hp]

theorem finishDone_of_match {s : State} (h : s.verify = true → adler s = s.ckExpect) :
    finishDone s = { s with phase := .finished } := if_neg fun hne => hne.2 (h hne.1)

theorem finishDone_of_mismatch {s : State} (hv : s.verify = true) (hne : adler s ≠ s.ckExpect) :
    finishDone s = raise .checksumMismatch s := if_pos ⟨hv, hne⟩

/-- A fault of a command, which has no position in the input, leaves nothing but the record (R325). -/
theorem raise_of_boundary_noPos {c : Cause} {s : State} (h : s.AtBoundary) (hpos : c.hasPos = false) :
    raise c s = { s with err := some c, errPos := 0, phase := .fault } := by
  rw [raise, rollback_of_boundary h, if_neg (by simp [hpos])]

/-- Settles O22: FINISH looks at the phase, then at the checksum; a fault at a boundary leaves only its record. -/
theorem finishDecompressChecksEnd : Obligations.FinishDecompressChecksEnd := by
  refine fun s hm hb => ⟨fun hp => ?_, fun hp hmatch => ?_, fun hp hv hne => ?_⟩
  · rw [exec_finish_truncated hm hp, raise_of_boundary hb rfl]
    exact congrArg _ (endCommand_of_decompress hm)
  · rw [exec_finish_done hp, finishDone_of_match hmatch]
    exact congrArg _ (endCommand_of_decompress hm)
  · rw [exec_finish_done hp, finishDone_of_mismatch hv hne, raise_of_boundary_noPos hb rfl]
    exact congrArg _ (endCommand_of_decompress hm)

/-! ## Refused commands -/

/-- A refused command at a step boundary changes the fault record, the phase and `PENDING` (R290, R298). -/
theorem badCommand_of_boundary {c : Cause} {s : State} (h : s.AtBoundary) (hpos : c.hasPos = false) :
    badCommand c s = { s with err := some c, errPos := 0, phase := .fault, pending := pendingNow s } := by
  rw [badCommand, raise_of_boundary_noPos h hpos]
  rfl

/-- The instruction is a reserved command (R298). -/
def Reserved (i : Instr) : Prop := ∀ s, exec i s = .next (reservedCommand s)

theorem reservedCommand_of_open {s : State} (hp : s.phase ≠ .fault) (hb : s.AtBoundary) :
    reservedCommand s =
      { s with err := some .reservedCode, errPos := 0, phase := .fault, pending := pendingNow s } := by
  rw [reservedCommand, if_neg hp, badCommand_of_boundary hb rfl]

theorem reserved_of_mem {code : Byte} {i : Instr}
    (hi : i ∈ ([.cmdReserved00, .cmdReserved07, .cmdReserved080F code, .cmdReserved101F code, .cmdReserved203F code,
        .cmdReserved407F code, .cmdReserved80FF code] : List Instr)) : Reserved i := by
  simp only [List.mem_cons, List.not_mem_nil, or_false] at hi
  rcases hi with rfl | rfl | rfl | rfl | rfl | rfl | rfl <;> exact fun _ => rfl

/-- Settles O23: every row is the one operation, which raises in every phase but FAULT. -/
theorem reservedCommandsFault : Obligations.ReservedCommandsFault := by
  intro code s hp hb i hi
  rw [reserved_of_mem hi s, reservedCommand_of_open hp hb]

/-! ## Refused writes to `CMD` -/

/-- The codes 0x00 and 0x07..0xFF are those of the reserved commands (R81, R298). -/
theorem decodeCmd_reserved {code : Nat} (hlt : code < 256) (hcode : code = 0 ∨ 7 ≤ code) (chunk : List Byte) :
    ∃ i, decodeCmd code chunk = .ok i ∧ Reserved i := by
  rcases hcode with rfl | hcode
  · exact ⟨.cmdReserved00, rfl, fun _ => rfl⟩
  · unfold decodeCmd
    iterate 7 rw [if_neg (by omega)]
    split_ifs
    iterate 6 exact ⟨_, rfl, fun _ => rfl⟩
    omega

/-- FEED, FLUSH or FINISH: the command needs an open stream (R291). -/
def NeedsStream (i : Instr) : Prop := (∃ chunk, i = .feed chunk) ∨ i = .flush ∨ i = .finish

theorem decodeCmd_needsStream {code : Nat} (hlo : 4 ≤ code) (hhi : code ≤ 6) (chunk : List Byte) :
    ∃ i, decodeCmd code chunk = .ok i ∧ NeedsStream i := by
  obtain rfl | rfl | rfl : code = 4 ∨ code = 5 ∨ code = 6 := by omega
  · exact ⟨.feed chunk, rfl, .inl ⟨chunk, rfl⟩⟩
  · exact ⟨.flush, rfl, .inr (.inl rfl)⟩
  · exact ⟨.finish, rfl, .inr (.inr rfl)⟩

theorem NeedsStream.exec_closed {i : Instr} {s : State} (h : NeedsStream i)
    (hp : s.phase = .idle ∨ s.phase = .finished) : exec i s = .next (badCommand .wrongPhase s) := by
  rcases h with ⟨chunk, rfl⟩ | rfl | rfl
  · show execFeed chunk s = _
    rcases hp with hp | hp <;> simp only [execFeed, hp]
  · show execFlush s = _
    rcases hp with hp | hp <;> simp only [execFlush, hp]
  · show execFinish s = _
    rcases hp with hp | hp <;> simp only [execFinish, hp]

theorem NeedsStream.exec_fault {i : Instr} {s : State} (h : NeedsStream i) (hp : s.phase = .fault) :
    exec i s = .next s := by
  rcases h with ⟨chunk, rfl⟩ | rfl | rfl
  · show execFeed chunk s = _
    simp only [execFeed, hp]
  · show execFlush s = _
    simp only [execFlush, hp]
  · show execFinish s = _
    simp only [execFinish, hp]

theorem Reserved.exec_fault {i : Instr} {s : State} (h : Reserved i) (hp : s.phase = .fault) : exec i s = .next s := by
  rw [h s, reservedCommand, if_pos hp]

/-- The step that takes a write to `CMD` executes what the low byte decodes to (R81, R290). -/
theorem step_of_cmd_write {v : Word32} {chunk : List Byte} {rest : List HostAccess} {s : State} {i : Instr}
    (hq : s.hostq = .write 0 v chunk :: rest) (hi : decodeCmd (v.toNat % 256) chunk = .ok i) :
    step s = exec i { s with hostq := rest } := step_of_command hq (accessEffect_write_cmd hi _)

/-- Settles O24: the low byte of the word decodes to a reserved command or to one that needs a stream, and the step
executes it. -/
theorem badCommandWritesFault : Obligations.BadCommandWritesFault := by
  intro v chunk rest s hq hb
  have hlt : v.toNat % 256 < 256 := Nat.mod_lt _ (by decide)
  refine ⟨fun hp hcode => ?_, fun hp hlo hhi => ?_, fun hp hcode => ?_⟩
  · obtain ⟨i, hi, hreserved⟩ := decodeCmd_reserved hlt hcode chunk
    have hraised := reservedCommand_of_open (s := { s with hostq := rest }) hp hb
    exact (step_of_cmd_write hq hi).trans ((hreserved _).trans (congrArg _ hraised))
  · obtain ⟨i, hi, hneeds⟩ := decodeCmd_needsStream hlo hhi chunk
    have hraised := badCommand_of_boundary (c := .wrongPhase) (s := { s with hostq := rest }) hb rfl
    have hclosed := hneeds.exec_closed (s := { s with hostq := rest }) hp
    exact (step_of_cmd_write hq hi).trans (hclosed.trans (congrArg _ hraised))
  · obtain ⟨i, hi, hignored⟩ : ∃ i, decodeCmd (v.toNat % 256) chunk = .ok i ∧
        exec i { s with hostq := rest } = .next { s with hostq := rest } := by
      by_cases hneeds : 4 ≤ v.toNat % 256 ∧ v.toNat % 256 ≤ 6
      · obtain ⟨i, hi, h⟩ := decodeCmd_needsStream hneeds.1 hneeds.2 chunk
        exact ⟨i, hi, h.exec_fault hp⟩
      · obtain ⟨i, hi, h⟩ := decodeCmd_reserved hlt (by omega) chunk
        exact ⟨i, hi, h.exec_fault hp⟩
    rw [step_of_cmd_write hq hi, hignored]

end Sys2Proof.Machine

/-! PROOFS. Faults, and the state after reset (spec 60_exceptions R325 to R327, 70_reset_and_hazards R351). -/

namespace Sys2Proof.Machine

/-! ## The record a fault leaves -/

/-- A fault of a decoder step differs from the state before the step in its record alone (R325). -/
theorem raise_of_hasPos {c : Cause} (hpos : c.hasPos = true) (s : State) :
    raise c s = { s with cursor := 0, pendLen := none, err := some c, errPos := s.bitposIn, phase := .fault } := by
  rw [raise, if_pos hpos]
  rfl

/-- Settles O57: an element keeps the phase or raises; one that ends in FAULT without having begun there has raised. -/
theorem faultingElementChangesNothing : Obligations.FaultingElementChangesNothing := by
  intro i s t hi hs he ht
  obtain hphase | ⟨c, hpos, rfl⟩ := exec_element_keepsPhaseOrRaises hi he
  · exact absurd (hphase.symm.trans ht) hs
  · exact ⟨Option.some_ne_none c, raise_of_hasPos hpos s⟩

/-! ## In FAULT -/

/-- Settles O25: each command either needs an open stream or is reserved, and the decoder does not run in FAULT. -/
theorem faultIsSticky : Obligations.FaultIsSticky := by
  refine fun chunk code s hp => ⟨fun i hi => ?_, fun hq => step_of_not_decoding hq (decoding_of_fault hp)⟩
  obtain rfl | rfl | rfl | hreserved : i = .feed chunk ∨ i = .flush ∨ i = .finish ∨
      i ∈ ([.cmdReserved00, .cmdReserved07, .cmdReserved080F code, .cmdReserved101F code, .cmdReserved203F code,
        .cmdReserved407F code, .cmdReserved80FF code] : List Instr) := by
    simpa only [List.mem_cons] using hi
  · exact NeedsStream.exec_fault (.inl ⟨chunk, rfl⟩) hp
  · exact NeedsStream.exec_fault (.inr (.inl rfl)) hp
  · exact NeedsStream.exec_fault (.inr (.inr rfl)) hp
  · exact (reserved_of_mem hreserved).exec_fault hp

/-! ## After reset -/

/-- A reset with legal parameters leaves every invariant true, whatever the state before it. -/
theorem resetState_safe {s : State} (hlegal : s.params.Legal) : (resetState s).Safe := by
  obtain ⟨hmem, hwindow, hsum⟩ := resetState_windowSafe s
  obtain ⟨hsink, hcount⟩ := resetState_outputSafe s
  obtain ⟨hparams, hblock, hchain⟩ := resetState_tokensSafe hlegal
  obtain ⟨hfault, hphase, htables, hheader⟩ := resetState_decoderSafe s
  exact ⟨hparams, hmem, hwindow, hsink, hsum, hfault, hphase, hcount, hblock, hchain, htables, hheader⟩

/-- Settles O51: the reset state is what a reset makes of itself; its default parameters are legal, no step is half
done, and no decompress stream is open. -/
theorem resetStateIsSafe : Obligations.ResetStateIsSafe := by
  have hlegal : State.reset.params.Legal := by decide
  exact ⟨resetState_safe (s := State.reset) hlegal, ⟨rfl, rfl⟩, capInv_of_mode fun h => nomatch h⟩

end Sys2Proof.Machine
